-- ==== Sys2Proof/Word.lean ====
section
/-! DEFINITION. The word and byte types (spec 00_scope, Conventions: a word is 32 bits). -/

namespace Sys2Proof

/-- A word of memory, of a command block or of a control copy: 32 bits. -/
abbrev Word := BitVec 32

/-- One byte of the SRAM. -/
abbrev Byte := BitVec 8

end Sys2Proof
end

