-- ==== Sys2Proof/Config.lean ====
section
/-! DEFINITION. What the board fixes for the part, and the values the model names where the spec gives none. -/

namespace Sys2Proof

/-- Installed memory in bytes, as the MSZ strap selects (R154): 256 KiB when `true`, 128 KiB when `false`. -/
def Config.installedSize (msz256 : Bool) : Nat := if msz256 then 0x40000 else 0x20000

/-- The size of the control page (R154). -/
def Config.pageSize : Nat := 0x1000

/-- The base of the control page (R154): the lowest 4 KiB of installed memory when CPSEL is low, the
highest when it is high. -/
def Config.pageBase (msz256 cpselHigh : Bool) : Nat :=
  if cpselHigh then Config.installedSize msz256 - Config.pageSize else 0

/-- What a byte of the SRAM reads as when nothing has written it. DESIGN CHOICE (log 4, unsafe): the spec
gives the SRAM no contents at power-on. -/
def Config.unwritten : Byte := 0

/-- A bound on the parts of one work item that the engine goes through without waiting for an effect
(log 21, safe). R84 bounds them: a chain of four quests of sixteen steps each. -/
def Config.engineParts : Nat := 0x4000000

end Sys2Proof
end

