-- ==== Sys2Proof/Syntax.lean ====
section
/-! DEFINITION. The commands of the block: one constructor of `Instr` per row of spec/opcode_table.json. -/

namespace Sys2Proof

/-- The two masters (R146): the game processor and the tile-link scanner. -/
inductive Master
  | proc
  | scan
  deriving DecidableEq, Repr

/-- The direction of an access (R146). -/
inductive Direction
  | read
  | write
  deriving DecidableEq, Repr

/-- The size of a master access (R146). -/
inductive AccessSize
  | byte
  | halfword
  | word
  deriving DecidableEq, Repr

/-- A master access as it is presented at its port (R146): a byte address, a direction, a size and, for a
write, its data. The data stands in its byte lanes: lane `i` of `data` goes to lane `i` of the word (log 13). -/
structure Access where
  addr : Word
  dir  : Direction
  size : AccessSize
  data : Word
  deriving DecidableEq, Repr

/-- The part's steps, each whole and indivisible. Three rows carry operands from outside: the straps sampled at
power-on reset, the new level of GAME_RESET, and a master's access. The other rows are the part's own steps and
take what they act on from the state. -/
inductive Instr
  /-- R160. The operands are the levels of the straps MSZ (256 KiB) and CPSEL (high). -/
  | powerOnReset (msz256 cpselHigh : Bool)
  /-- R160. -/
  | powerOnZeroWrite
  /-- R162. The operand is the new level of GAME_RESET: asserting it is the warm reset (log 10). -/
  | warmReset (asserted : Bool)
  /-- R146, R147. -/
  | masterRequest (m : Master) (a : Access)
  /-- R150. -/
  | masterRead
  /-- R150. -/
  | masterWrite
  /-- R170. -/
  | causeWordClear
  /-- R165. -/
  | droppedControlWrite
  /-- R5. -/
  | watchTakeWrite
  /-- R140. -/
  | revealCopyUpdate
  /-- R166. -/
  | enableWordTaken
  /-- R167. -/
  | turnWordTaken
  /-- R175. -/
  | commandProduceIndex
  /-- R190. -/
  | noticeConsumeIndex
  /-- R117. -/
  | beat
  /-- R120. -/
  | timerExpiry
  /-- R16. -/
  | syncReadComplete
  /-- R17, R18. -/
  | armWatch
  /-- R19. -/
  | armBitWatch
  /-- R21, R22. -/
  | disarmWatch
  /-- R20. -/
  | resyncWatch
  /-- R23. -/
  | readWatch
  /-- R42, R43. -/
  | defineSteps
  /-- R111, R112. -/
  | defineEffects
  /-- R44, R45. -/
  | loadQuest
  /-- R46, R47. -/
  | startQuest
  /-- R48. -/
  | holdQuest
  /-- R49. -/
  | resumeQuest
  /-- R50, R88, R89. -/
  | abandonQuest
  /-- R51. -/
  | unloadQuest
  /-- R52. -/
  | readQuest
  /-- R126. -/
  | setTimer
  /-- R127. -/
  | presetTimer
  /-- R128. -/
  | runTimer
  /-- R129. -/
  | stopTimer
  /-- R130. -/
  | readTimer
  /-- R157. -/
  | setRegion
  /-- R159. -/
  | clearRegion
  /-- R191. -/
  | setNoticeRing
  /-- R67. -/
  | watchTriggerTake
  /-- R72. -/
  | expiryTriggerTake
  /-- R98. -/
  | effectGrant
  /-- R105, R106. -/
  | effectSettled
  /-- R156, R169. -/
  | faultWordWrite
  /-- R169. -/
  | causeWordPublish
  /-- R169. -/
  | vectorWordPublish
  /-- R173. -/
  | warmResetCauseWrite
  /-- R188. -/
  | noticeElementWrite
  /-- R188. -/
  | noticeProduceWrite
  /-- R191. -/
  | noticeRingIndexWrite
  /-- R177. -/
  | commandFetchRead
  /-- R180. -/
  | resultWordWrite
  /-- R180. -/
  | statusWordWrite
  /-- R181. -/
  | consumeIndexWrite
  deriving DecidableEq, Repr

end Sys2Proof
end

