-- ==== Sys2Proof/WellFormed.lean ====
section
/-! DEFINITION. Which commands the outside can send. Only MASTER_REQUEST carries operands that can be ill formed. -/

namespace Sys2Proof

/-- R146: a master access presents a byte address from 0x00000 to 0xFFFFF. -/
def Access.addressInRange (a : Access) : Bool := a.addr.toNat < 0x100000

/-- R146: an access carries data for a write only. -/
def Access.dataOnlyForWrite (a : Access) : Bool :=
  match a.dir with
  | .read => a.data == 0
  | .write => true

/-- The well-formed commands: every check on the operands of one command. -/
def Instr.wf : Instr → Bool
  | .masterRequest _ a => a.addressInRange && a.dataOnlyForWrite
  | .powerOnReset _ _ | .powerOnZeroWrite | .warmReset _ | .masterRead | .masterWrite | .causeWordClear
  | .droppedControlWrite | .watchTakeWrite | .revealCopyUpdate | .enableWordTaken | .turnWordTaken
  | .commandProduceIndex | .noticeConsumeIndex | .beat | .timerExpiry | .syncReadComplete | .armWatch
  | .armBitWatch | .disarmWatch | .resyncWatch | .readWatch | .defineSteps | .defineEffects | .loadQuest
  | .startQuest | .holdQuest | .resumeQuest | .abandonQuest | .unloadQuest | .readQuest | .setTimer
  | .presetTimer | .runTimer | .stopTimer | .readTimer | .setRegion | .clearRegion | .setNoticeRing
  | .watchTriggerTake | .expiryTriggerTake | .effectGrant | .effectSettled | .faultWordWrite
  | .causeWordPublish | .vectorWordPublish | .warmResetCauseWrite | .noticeElementWrite
  | .noticeProduceWrite | .noticeRingIndexWrite | .commandFetchRead | .resultWordWrite
  | .statusWordWrite | .consumeIndexWrite => true

end Sys2Proof
end

