-- ==== Sys2Proof/Machine/State.lean ====
section
/-! DEFINITION. The state of the part: every register, queue, pool, copy and pin the spec gives it, as plain data,
with the queue of waiting commands, and the state after power-on reset. -/

namespace Sys2Proof.Machine

open Sys2Proof

/-- The part stops on no command: what the spec calls a fault (R155, R156) is state, and the spec leaves no
behaviour undefined. The type has no constructor. -/
inductive Fault
  deriving DecidableEq, Repr

/-- Why a command has no meaning. -/
inductive Refusal
  /-- Raised by an arm of `exec` whose command has no meaning yet; safe: nothing is claimed of it. No arm
  raises it in this model. -/
  | notModelled (mnemonic : String)
  deriving DecidableEq, Repr

/-! ### Memory -/

/-- The SRAM: addresses strictly rising, no entry equal to what an unlisted address reads as (`Memory.wf`). -/
abbrev Memory := List Host.Cell

/-- The origin of a write as the part records it (00_scope, Terms: Writer). -/
inductive Writer
  | proc
  | scan
  | effect
  | part
  deriving DecidableEq, Repr

/-- A set of byte lanes (00_scope, Terms: Byte lane). -/
structure Lanes where
  l0 : Bool
  l1 : Bool
  l2 : Bool
  l3 : Bool
  deriving DecidableEq, Repr

/-- One write entry of the snoop stream (R5, R151). `atPowerOn` marks the thirteen zero writes of R160, which
the control-page unit takes without handing them on (R168; log 25). -/
structure SnoopWrite where
  addr      : Nat
  lanes     : Lanes
  data      : Word
  writer    : Writer
  depth     : Nat
  atPowerOn : Bool
  deriving DecidableEq, Repr

/-- What stands in the snoop stream (R151): a completed write, or the completion of the watch unit's
synchronising read with the word read. -/
inductive StreamBody
  | write (w : SnoopWrite)
  | syncMark (word : Word)
  deriving DecidableEq, Repr

/-- The three blocks that take the snoop stream (00_scope, Block overview). -/
inductive Snooper
  | watch
  | fog
  | page
  deriving DecidableEq, Repr

/-- One item of the stream and which of the three blocks have yet to take it (R151). -/
structure StreamItem where
  body     : StreamBody
  watchDue : Bool
  fogDue   : Bool
  pageDue  : Bool
  deriving DecidableEq, Repr

/-! ### Watches (R1, R2) -/

inductive WatchState
  | free
  | syncing
  | armed
  deriving DecidableEq, Repr

/-- The eleven conditions, codes 0 to 10 (R3, R4). -/
inductive Condition
  | equal
  | unequal
  | below
  | atLeast
  | above
  | atMost
  | less
  | notLess
  | greater
  | notGreater
  | changed
  deriving DecidableEq, Repr

/-- The writers whose writes may fire a watch (R8). PART cannot be named. -/
structure WriterFilter where
  proc   : Bool
  scan   : Bool
  effect : Bool
  deriving DecidableEq, Repr

/-- One entry of the watch table (R1). Operand and shadow are held zero-extended to 32 bits. -/
structure Watch where
  state     : WatchState
  addr      : Nat
  lowBit    : Nat
  width     : Nat
  condition : Condition
  operand   : Word
  filter    : WriterFilter
  notify    : Bool
  fireOnArm : Bool
  shadow    : Word
  truth     : Bool
  missed    : Bool
  deriving DecidableEq, Repr

/-- The cleared entry of R2. -/
def Watch.cleared : Watch :=
  { state := .free, addr := 0, lowBit := 0, width := 0, condition := .equal, operand := 0,
    filter := ⟨false, false, false⟩, notify := false, fireOnArm := false, shadow := 0, truth := false,
    missed := false }

/-- The one outstanding synchronising read (R13): its watch and word, whether its completion already stands in
the stream, and whether the watch it was made for has given it up, so that its completion is discarded
(R16, R26; log 28). -/
structure SyncRead where
  watch     : Fin 64
  addr      : Nat
  completed : Bool
  stale     : Bool
  deriving DecidableEq, Repr

/-! ### The trigger queue (R57) -/

inductive Trigger
  | watch (w : Fin 64) (writer : Writer) (depth : Nat)
  | expiry (t : Fin 8) (binder : Option (Fin 32))
  deriving DecidableEq, Repr

/-! ### Quests and steps (R27, R29) -/

inductive QuestState
  | vacant
  | loaded
  | active
  | held
  | suspended
  | done
  | failed
  deriving DecidableEq, Repr

inductive OrderMode
  | strict
  | loose
  deriving DecidableEq, Repr

inductive Owner
  | player (p : Fin 6)
  | any
  deriving DecidableEq, Repr

inductive FailReason
  | outOfOrder
  | timeout
  | childFailed
  | callBusy
  | depth
  | abandoned
  deriving DecidableEq, Repr

/-- A quest context (R27). -/
structure Quest where
  state     : QuestState
  firstStep : Nat
  stepCount : Nat
  current   : Nat
  order     : OrderMode
  owner     : Owner
  tag       : Word
  parent    : Option (Fin 32)
  child     : Option (Fin 32)
  depth     : Nat
  bound     : Option (Fin 8)
  late      : Bool
  reason    : Option FailReason
  deriving DecidableEq, Repr

/-- The cleared context of R27. -/
def Quest.cleared : Quest :=
  { state := .vacant, firstStep := 0, stepCount := 0, current := 0, order := .strict, owner := .player 0,
    tag := 0, parent := none, child := none, depth := 0, bound := none, late := false, reason := none }

inductive TimeoutAction
  | fail
  | skip
  | note
  deriving DecidableEq, Repr

/-- A record of the step pool (R29). -/
structure StepRec where
  trigger     : Option (Fin 64)
  guard       : Option (Fin 64)
  gated       : Bool
  timer       : Option (Fin 8)
  action      : TimeoutAction
  firstEffect : Nat
  effectCount : Nat
  call        : Option (Fin 32)
  notify      : Bool
  deriving DecidableEq, Repr

/-- The zeroed step record of R54. -/
def StepRec.zeroed : StepRec :=
  { trigger := some 0, guard := some 0, gated := false, timer := some 0, action := .fail, firstEffect := 0,
    effectCount := 0, call := some 0, notify := false }

/-! ### Effects (R94, R96, R106) -/

inductive EffectKind
  | setBit
  | clearBit
  | flipBit
  | writeField
  | addField
  | writeIf
  | copyShadow
  deriving DecidableEq, Repr

/-- A record of the effect pool (R94). The word address is the exact number of R95 (log 14). -/
structure EffectRec where
  kind   : EffectKind
  addr   : Nat
  lowBit : Nat
  width  : Nat
  value  : Word
  ref    : Option (Fin 64)
  deriving DecidableEq, Repr

/-- The zeroed effect record of R113. -/
def EffectRec.zeroed : EffectRec :=
  { kind := .setBit, addr := 0, lowBit := 0, width := 1, value := 0, ref := none }

inductive EffectStatus
  | done
  | skipped
  | denied
  deriving DecidableEq, Repr

/-- What the effect unit reports (R106). -/
structure EffectResult where
  status : EffectStatus
  old    : Word
  new    : Word
  deriving DecidableEq, Repr

/-- What the effect unit holds of an effect that waits for its grant (R96): the record, the work item's
depth, and for COPY_SHADOW the captured shadow (0 for the other kinds). -/
structure EffectJob where
  record   : EffectRec
  depth    : Nat
  captured : Word
  deriving DecidableEq, Repr

/-- The effect unit (R96). TRANSFER is the time of the effect's grant, which `Mpa.port` holds. -/
inductive EffectUnit
  | idle
  | grantWait (job : EffectJob)
  | settling (old new : Word)
  deriving DecidableEq, Repr

/-! ### Notices (R186) -/

/-- Where a work item or a firing comes from (R63, R186 part 5). -/
inductive Source
  | watch (w : Fin 64) (writer : Writer) (depth : Nat)
  | expiry (t : Fin 8)
  | command (code : Nat)
  deriving DecidableEq, Repr

inductive NoticeKind
  | stepPassed
  | stepSkipped
  | stepLate
  | questDone
  | questFailed
  | watchFired
  deriving DecidableEq, Repr

/-- How a step ended (R186). -/
inductive Ended
  | passed
  | skipped
  | late
  deriving DecidableEq, Repr

/-- How a firing's offer ended (R12). -/
inductive Offer
  | queued
  | depth
  | lost
  deriving DecidableEq, Repr

/-- The eight parts of a notice (R186). `number` is the quest, or the watch of WATCH_FIRED. -/
structure Notice where
  kind     : NoticeKind
  number   : Nat
  step     : Option Nat
  owner    : Option Owner
  tag      : Word
  statuses : List EffectStatus
  ended    : Option Ended
  reason   : Option FailReason
  timer    : Option (Fin 8)
  offer    : Option Offer
  old      : Word
  new      : Word
  source   : Source
  turn     : Word
  parent   : Option (Fin 32)
  child    : Option (Fin 32)
  depth    : Nat
  deriving DecidableEq, Repr

inductive WriterState
  | idle
  | writing (word : Nat)
  | publishing
  deriving DecidableEq, Repr

/-- The notice writer (R185). `indexWrites` counts the index writes of R191 still to be made. -/
structure NoticeWriter where
  ringSet       : Bool
  base          : Nat
  size          : Nat
  produce       : Nat
  hold          : List Notice
  writer        : WriterState
  element       : Option Notice
  pendingConfig : Option (Nat × Nat)
  indexWrites   : Nat
  deriving DecidableEq, Repr

/-! ### The quest engine's work item (R63, R67, R74) -/

/-- The part of a work item that the engine does next.
* `nextVisit`: go to the next recorded quest, or end the work item (R64, R67);
* `pass q`: part 1 of the pass of `q`'s current step (R33);
* `effects q i outs`: request effect `i` of the step; `outs` are the outcomes so far (R34);
* `awaiting q i outs`: wait for the outcome of effect `i`;
* `passed q outs`: parts 3 to 5 of the pass;
* `advance q how`: advance (R35), the step having ended as `how` says;
* `timeout q`: the timeout action (R36);
* `fail q reason timer upTo`: `q` fails (R40, R87); with `upTo = some n` it is part of ABANDON QUEST
  naming `n`, whose turn has not come yet (R89). -/
inductive Task
  | nextVisit
  | pass (q : Fin 32)
  | effects (q : Fin 32) (i : Nat) (outs : List EffectResult)
  | awaiting (q : Fin 32) (i : Nat) (outs : List EffectResult)
  | passed (q : Fin 32) (outs : List EffectResult)
  | advance (q : Fin 32) (how : Ended)
  | timeout (q : Fin 32)
  | fail (q : Fin 32) (reason : FailReason) (timer : Option (Fin 8)) (upTo : Option (Fin 32))
  deriving DecidableEq, Repr

/-- A work item in progress (R63): its source and depth, the player field recorded at the take, and the
recorded quests not yet reached (R67). -/
structure WorkItem where
  source : Source
  depth  : Nat
  player : Nat
  visits : List (Fin 32)
  task   : Task
  deriving DecidableEq, Repr

/-! ### Timers (R115) -/

inductive TimerState
  | stopped
  | running
  deriving DecidableEq, Repr

inductive Clock
  | beat
  | turn
  deriving DecidableEq, Repr

inductive TimerMode
  | oneShot
  | periodic
  deriving DecidableEq, Repr

structure Timer where
  reload : BitVec 16
  count  : BitVec 16
  state  : TimerState
  clock  : Clock
  mode   : TimerMode
  route  : Bool
  binder : Option (Fin 32)
  deriving DecidableEq, Repr

/-- The cleared timer of R132. -/
def Timer.cleared : Timer :=
  { reload := 0, count := 0, state := .stopped, clock := .beat, mode := .oneShot, route := false,
    binder := none }

/-! ### Regions (R134, R152) -/

structure Rights where
  procRead    : Bool
  procWrite   : Bool
  scanRead    : Bool
  scanWrite   : Bool
  effectWrite : Bool
  deriving DecidableEq, Repr

/-- The four tile strides (R134), codes 0 to 3. -/
inductive TileStride
  | b16
  | b32
  | b64
  | b128
  deriving DecidableEq, Repr

structure Region where
  enabled   : Bool
  base      : Nat
  limit     : Nat
  rights    : Rights
  fog       : Bool
  stride    : TileStride
  firstTile : Nat
  fogWord   : Word
  deriving DecidableEq, Repr

/-- The cleared entry of R152 and R144. -/
def Region.cleared : Region :=
  { enabled := false, base := 0, limit := 0, rights := ⟨false, false, false, false, false⟩, fog := false,
    stride := .b16, firstTile := 0, fogWord := 0 }

/-- The fault record (R156). -/
structure FaultRec where
  writer : Writer
  dir    : Direction
  addr   : BitVec 24
  deriving DecidableEq, Repr

/-- The record that power-on reset leaves (R160). -/
def FaultRec.cleared : FaultRec := { writer := .proc, dir := .read, addr := 0 }

/-! ### The memory port (R147, R149) -/

/-- The accesses that the IR makes, each by its step. -/
inductive IRAccess
  | effectRmw
  | syncRead
  | faultWrite
  | causeWrite
  | vectorWrite
  | resetWrite
  | elementWrite
  | produceWrite
  | ringIndexWrite
  | fetchRead
  | resultWrite
  | statusWrite
  | consumeWrite
  deriving DecidableEq, Repr

/-- What is left of a grant whose sub-client a warm reset has withdrawn (R162; log 19): a read whose data is
discarded, a write with the value it had, or an effect's read-modify-write. -/
inductive OrphanOp
  | read
  | write (addr : Nat) (data : Word)
  | effect (job : EffectJob)
  deriving DecidableEq, Repr

/-- A grant in progress (R147): the grantee is PROC, SCAN or the IR. -/
inductive Grant
  | master (m : Master)
  | ir (a : IRAccess)
  | orphan (a : IRAccess) (op : OrphanOp)
  deriving DecidableEq, Repr

/-- The arbiter's state (R147). `port = none` is FREE. `zeroNext` counts the zero writes of R160 made. -/
structure Mpa where
  port       : Option Grant
  lastMaster : Master
  previousIR : Bool
  hold       : Bool
  zeroNext   : Nat
  deriving DecidableEq, Repr

/-- A master's port (R146): the access outstanding, and the data last returned to it (R150; log 13). -/
structure MasterPort where
  access : Option Access
  data   : Word
  deriving DecidableEq, Repr

/-! ### The control-page unit (R166, R167, R168) -/

structure PageCopies where
  enable       : Word
  turn         : Word
  produceImage : Word
  consumeImage : Word
  produce      : Nat
  consume      : Nat
  deriving DecidableEq, Repr

/-! ### The cause unit (R169) -/

/-- A set of causes 1 to 15, cause `n` in bit `n − 1`, as the cause word shows it (12_memory_formats). -/
abbrev CauseSet := BitVec 15

/-- Which write the cause unit makes next: none; steps 1 and 2 of a publication; step 3; the two writes after
a warm reset (R169, R173). -/
inductive Publication
  | idle
  | raising
  | vectoring
  | resetCause
  | resetVector
  deriving DecidableEq, Repr

structure CauseUnit where
  pendingSet  : CauseSet
  working     : CauseSet
  arrivals    : CauseSet
  enableSet   : CauseSet
  handed      : CauseSet
  vector      : BitVec 4
  int         : Bool
  publication : Publication
  lastFault   : FaultRec
  deriving DecidableEq, Repr

/-! ### The command unit (R176) -/

/-- The status codes (R180). -/
inductive Status
  | ok
  | badCode
  | badLength
  | badField
  | outOfRange
  | busy
  | inUse
  | notDefined
  deriving DecidableEq, Repr

/-- The command unit's states (R176): FETCHING holds the words read so far; DISPATCHED the block and whether
its block has taken the command; REPORTING the status and the result words still to be written, `next` being
the slot word of the first of them. -/
inductive CmdState
  | idle
  | fetching (words : List Word)
  | dispatched (words : List Word) (taken : Bool)
  | reporting (status : Status) (next : Nat) (results : List Word)
  | advancing
  deriving DecidableEq, Repr

/-! ### The whole -/

/-- The state of the part, and the queue of the commands that are waiting, first in first out. `watchReset` is the warm
reset that the watch unit has yet to take: how many items of its input stand before it (R114, R162, R163; log 32). -/
structure State where
  pending       : List Instr
  msz256        : Bool
  cpselHigh     : Bool
  gameReset     : Bool
  mem           : Memory
  mpa           : Mpa
  procPort      : MasterPort
  scanPort      : MasterPort
  stream        : List StreamItem
  regions       : Vector Region 16
  pendingRegion : Option (Fin 16 × Region)
  fault         : FaultRec
  reveal        : Vector Word 4
  page          : PageCopies
  cause         : CauseUnit
  watches       : Vector Watch 64
  syncRead      : Option SyncRead
  watchReset    : Option Nat
  queue         : List Trigger
  quests        : Vector Quest 32
  steps         : Vector StepRec 128
  work          : Option WorkItem
  effects       : Vector EffectRec 96
  effectUnit    : EffectUnit
  timers        : Vector Timer 8
  beatOut       : Bool
  consumeIndex  : Nat
  cmd           : CmdState
  notice        : NoticeWriter
  deriving DecidableEq, Repr

/-- The machine right after power-on reset (R2, R25, R53, R54, R75, R113, R132, R144, R160, R172, R183, R192),
with 128 KiB installed and CPSEL low (DESIGN CHOICE, log 3), GAME_RESET deasserted (DESIGN CHOICE, log 10),
nothing written in memory (DESIGN CHOICE, log 4), and nothing at the masters' ports (DESIGN CHOICE, logs 13
and 23). -/
def State.reset : State :=
  { pending := []
    msz256 := false
    cpselHigh := false
    gameReset := false
    mem := []
    mpa := { port := none, lastMaster := .scan, previousIR := false, hold := true, zeroNext := 0 }
    procPort := { access := none, data := 0 }
    scanPort := { access := none, data := 0 }
    stream := []
    regions := Vector.replicate 16 Region.cleared
    pendingRegion := none
    fault := FaultRec.cleared
    reveal := Vector.replicate 4 0
    page := { enable := 0, turn := 0, produceImage := 0, consumeImage := 0, produce := 0, consume := 0 }
    cause :=
      { pendingSet := 0, working := 0, arrivals := 0, enableSet := 0, handed := 0, vector := 0,
        int := false, publication := .idle, lastFault := FaultRec.cleared }
    watches := Vector.replicate 64 Watch.cleared
    syncRead := none
    watchReset := none
    queue := []
    quests := Vector.replicate 32 Quest.cleared
    steps := Vector.replicate 128 StepRec.zeroed
    work := none
    effects := Vector.replicate 96 EffectRec.zeroed
    effectUnit := .idle
    timers := Vector.replicate 8 Timer.cleared
    beatOut := false
    consumeIndex := 0
    cmd := .idle
    notice :=
      { ringSet := false, base := 0, size := 0, produce := 0, hold := [], writer := .idle, element := none,
        pendingConfig := none, indexWrites := 0 } }

end Sys2Proof.Machine
end

