-- ==== Sys2Proof/Machine/Operands.lean ====
section
/-! DEFINITION. The operand forms: fields of a word, byte lanes, the forms of a master access, and the codes of
12_memory_formats in both directions. -/

namespace Sys2Proof.Machine

open Sys2Proof

/-! ### Fields of a word -/

/-- The field of `len` bits from bit `lo` (00_scope, Conventions). -/
def bits (w : Word) (lo len : Nat) : Nat := (w.toNat / 2 ^ lo) % 2 ^ len

/-- One flag bit of a word. -/
def bit (w : Word) (n : Nat) : Bool := bits w n 1 == 1

/-- The value `v` placed in a field of `len` bits from bit `lo`, as a number to be added to the others of its word
(R193: every bit outside the listed fields is written 0). -/
def fieldAt (lo len v : Nat) : Nat := (v % 2 ^ len) * 2 ^ lo

/-- A flag placed at a bit. -/
def flagAt (n : Nat) (b : Bool) : Nat := if b then 2 ^ n else 0

/-- A value truncated to `width` bits (R3, R102). -/
def truncateTo (width : Nat) (v : Word) : Word := BitVec.ofNat 32 (v.toNat % 2 ^ width)

/-- The value of a field of a word, zero-extended. -/
def extractField (w : Word) (lowBit width : Nat) : Word := BitVec.ofNat 32 (bits w lowBit width)

/-- The bits of a word that a field covers. -/
def fieldMask (lowBit width : Nat) : Word := BitVec.ofNat 32 ((2 ^ width - 1) * 2 ^ lowBit)

/-- A word with a field replaced, every other bit left as it was (R100). -/
def insertField (w : Word) (lowBit width : Nat) (v : Word) : Word :=
  (w &&& ~~~(fieldMask lowBit width)) ||| ((v <<< lowBit) &&& fieldMask lowBit width)

/-! ### Byte lanes -/

/-- All four lanes. -/
def Lanes.all : Lanes := ⟨true, true, true, true⟩

/-- The bits of a word that lie in the given lanes. -/
def Lanes.mask (l : Lanes) : Word :=
  BitVec.ofNat 32
    ((if l.l0 then 0xFF else 0) + (if l.l1 then 0xFF00 else 0) + (if l.l2 then 0xFF0000 else 0)
      + (if l.l3 then 0xFF000000 else 0))

/-- `new` in the given lanes, `old` in the others. -/
def mergeLanes (l : Lanes) (old new : Word) : Word := (old &&& ~~~l.mask) ||| (new &&& l.mask)

/-- A word's bits in the given lanes, zero elsewhere. -/
def onLanes (l : Lanes) (w : Word) : Word := w &&& l.mask

/-- Lane `i` of a word (00_scope, Terms: Byte lane). -/
def laneByte (w : Word) (i : Nat) : Byte := w.extractLsb' (8 * i) 8

/-! ### Master accesses (R146) -/

/-- The word address that holds the access's address. -/
def wordAddrOf (a : Access) : Nat := a.addr.toNat / 4 * 4

/-- R146: a halfword at an odd address or a word not at a multiple of 4 is misaligned. -/
def misaligned (a : Access) : Bool :=
  match a.size with
  | .byte => false
  | .halfword => a.addr.toNat % 2 != 0
  | .word => a.addr.toNat % 4 != 0

/-- The byte lanes that the access's size and address select (R146); none when it is misaligned. -/
def lanesOf (a : Access) : Lanes :=
  let k := a.addr.toNat % 4
  match a.size with
  | .byte => ⟨k == 0, k == 1, k == 2, k == 3⟩
  | .halfword => ⟨k == 0, k == 0, k == 2, k == 2⟩
  | .word => ⟨k == 0, k == 0, k == 0, k == 0⟩

/-- The writer that a master's writes carry. -/
def masterWriter : Master → Writer
  | .proc => .proc
  | .scan => .scan

/-! ### Codes (12_memory_formats 12.3) -/

def Writer.code : Writer → Nat
  | .proc => 0
  | .scan => 1
  | .effect => 2
  | .part => 3

def WatchState.code : WatchState → Nat
  | .free => 0
  | .syncing => 1
  | .armed => 2

def Condition.code : Condition → Nat
  | .equal => 0
  | .unequal => 1
  | .below => 2
  | .atLeast => 3
  | .above => 4
  | .atMost => 5
  | .less => 6
  | .notLess => 7
  | .greater => 8
  | .notGreater => 9
  | .changed => 10

/-- R3: codes 0 to 10; a code above 10 is refused. -/
def conditionOfCode : Nat → Option Condition
  | 0 => some .equal
  | 1 => some .unequal
  | 2 => some .below
  | 3 => some .atLeast
  | 4 => some .above
  | 5 => some .atMost
  | 6 => some .less
  | 7 => some .notLess
  | 8 => some .greater
  | 9 => some .notGreater
  | 10 => some .changed
  | _ => none

/-- The writer filter in bits 16 to 18 of a word (12.4): PROC, SCAN, EFFECT. -/
def filterOfWord (w : Word) : WriterFilter := ⟨bit w 16, bit w 17, bit w 18⟩

def WriterFilter.isEmpty (f : WriterFilter) : Bool := !f.proc && !f.scan && !f.effect

def WriterFilter.code (f : WriterFilter) : Nat := flagAt 0 f.proc + flagAt 1 f.scan + flagAt 2 f.effect

/-- R8: whether a writer is in the filter. PART never is. -/
def WriterFilter.accepts (f : WriterFilter) : Writer → Bool
  | .proc => f.proc
  | .scan => f.scan
  | .effect => f.effect
  | .part => false

def QuestState.code : QuestState → Nat
  | .vacant => 0
  | .loaded => 1
  | .active => 2
  | .held => 3
  | .suspended => 4
  | .done => 5
  | .failed => 6

/-- R28: ACTIVE, HELD and SUSPENDED are the running states. -/
def QuestState.running : QuestState → Bool
  | .active => true
  | .held => true
  | .suspended => true
  | .vacant => false
  | .loaded => false
  | .done => false
  | .failed => false

def OrderMode.code : OrderMode → Nat
  | .strict => 0
  | .loose => 1

def orderOfCode : Nat → Option OrderMode
  | 0 => some .strict
  | 1 => some .loose
  | _ => none

def Owner.code : Owner → Nat
  | .player p => p.val
  | .any => 14

/-- R44: a player 0 to 5 or ANY. -/
def ownerOfCode (n : Nat) : Option Owner :=
  if h : n < 6 then some (.player ⟨n, h⟩) else if n = 14 then some .any else none

def FailReason.code : FailReason → Nat
  | .outOfOrder => 0
  | .timeout => 1
  | .childFailed => 2
  | .callBusy => 3
  | .depth => 4
  | .abandoned => 5

def actionOfCode : Nat → Option TimeoutAction
  | 0 => some .fail
  | 1 => some .skip
  | 2 => some .note
  | _ => none

def kindOfCode : Nat → Option EffectKind
  | 0 => some .setBit
  | 1 => some .clearBit
  | 2 => some .flipBit
  | 3 => some .writeField
  | 4 => some .addField
  | 5 => some .writeIf
  | 6 => some .copyShadow
  | _ => none

/-- R95: the bit kinds name their target in bit-string form. -/
def EffectKind.isBitKind : EffectKind → Bool
  | .setBit => true
  | .clearBit => true
  | .flipBit => true
  | .writeField => false
  | .addField => false
  | .writeIf => false
  | .copyShadow => false

/-- R94: WRITE_IF and COPY_SHADOW carry a watch reference. -/
def EffectKind.usesWatch : EffectKind → Bool
  | .writeIf => true
  | .copyShadow => true
  | .setBit => false
  | .clearBit => false
  | .flipBit => false
  | .writeField => false
  | .addField => false

def Clock.code : Clock → Nat
  | .beat => 0
  | .turn => 1

def clockOfCode : Nat → Option Clock
  | 0 => some .beat
  | 1 => some .turn
  | _ => none

def TimerMode.code : TimerMode → Nat
  | .oneShot => 0
  | .periodic => 1

def modeOfCode : Nat → Option TimerMode
  | 0 => some .oneShot
  | 1 => some .periodic
  | _ => none

def TimerState.code : TimerState → Nat
  | .stopped => 0
  | .running => 1

def strideOfCode : Nat → Option TileStride
  | 0 => some .b16
  | 1 => some .b32
  | 2 => some .b64
  | 3 => some .b128
  | _ => none

def TileStride.bytes : TileStride → Nat
  | .b16 => 16
  | .b32 => 32
  | .b64 => 64
  | .b128 => 128

def Status.code : Status → Nat
  | .ok => 0
  | .badCode => 1
  | .badLength => 2
  | .badField => 3
  | .outOfRange => 4
  | .busy => 5
  | .inUse => 6
  | .notDefined => 7

def NoticeKind.code : NoticeKind → Nat
  | .stepPassed => 0
  | .stepSkipped => 1
  | .stepLate => 2
  | .questDone => 3
  | .questFailed => 4
  | .watchFired => 5

def EffectStatus.code : EffectStatus → Nat
  | .done => 0
  | .skipped => 1
  | .denied => 2

def Ended.code : Ended → Nat
  | .passed => 0
  | .skipped => 1
  | .late => 2

def Offer.code : Offer → Nat
  | .queued => 0
  | .depth => 1
  | .lost => 2

/-! ### Fields that may hold none: all ones at the field's width (00_scope, Conventions) -/

/-- A quest field of 8 bits. -/
def questCode : Option (Fin 32) → Nat
  | some q => q.val
  | none => 0xFF

/-- A timer field of 4 bits. -/
def timerCode : Option (Fin 8) → Nat
  | some t => t.val
  | none => 0xF

/-- A fail-reason field of 3 bits. -/
def reasonCode : Option FailReason → Nat
  | some r => r.code
  | none => 7

/-- An 8-bit watch field of a command (R42, R111): a watch, none, or a number out of range. -/
def watchRefOf (n : Nat) : Option (Option (Fin 64)) :=
  if h : n < 64 then some (some ⟨n, h⟩) else if n = 0xFF then some none else none

/-- An 8-bit quest field of a command. -/
def questRefOf (n : Nat) : Option (Option (Fin 32)) :=
  if h : n < 32 then some (some ⟨n, h⟩) else if n = 0xFF then some none else none

/-- A 4-bit timer field of a command. -/
def timerRefOf (n : Nat) : Option (Option (Fin 8)) :=
  if h : n < 8 then some (some ⟨n, h⟩) else if n = 0xF then some none else none

/-- Table numbers of a command: in range, or none. -/
def watchNumber (n : Nat) : Option (Fin 64) := if h : n < 64 then some ⟨n, h⟩ else none

def questNumber (n : Nat) : Option (Fin 32) := if h : n < 32 then some ⟨n, h⟩ else none

def timerNumber (n : Nat) : Option (Fin 8) := if h : n < 8 then some ⟨n, h⟩ else none

def regionNumber (n : Nat) : Option (Fin 16) := if h : n < 16 then some ⟨n, h⟩ else none

/-! ### Bit strings (R19, R95) -/

/-- The word of a bit of a bit string: base + 4 × (index div 32), exact (log 14). -/
def bitStringAddr (base index : Nat) : Nat := base + 4 * (index / 32)

/-- The low bit of a bit of a bit string. -/
def bitStringLow (index : Nat) : Nat := index % 32

/-! ### Words of a command block (R174) -/

/-- Word `n` of a block, by the words read so far (0 for a word not read). -/
def wordAt (words : List Word) (n : Nat) : Word := words.getD n 0

/-- The code of a block (R174: bits 0 to 7 of word 0). -/
def codeOf (words : List Word) : Nat := bits (wordAt words 0) 0 8

/-- The length field of a block (R174: bits 16 to 23 of word 0). -/
def lengthOf (words : List Word) : Nat := bits (wordAt words 0) 16 8

end Sys2Proof.Machine
end

