-- ==== Sys2Proof/Machine/Flags.lean ====
section
/-! DEFINITION. The tests and the field computations: a watch's truth (R3, R4), the shadow after a write (R6), and
the new value of an effect's target field (R101 to R104). -/

namespace Sys2Proof.Machine

open Sys2Proof

/-! ### Conditions -/

/-- A value of `width` bits read as two's complement (00_scope, Conventions; R3). -/
def signedAt (width : Nat) (v : Word) : Int :=
  if 2 * v.toNat < 2 ^ width then (v.toNat : Int) else (v.toNat : Int) - (2 ^ width : Nat)

/-- Whether the condition holds for the shadow (R3); never for CHANGED (R4). -/
def truthOf (c : Condition) (width : Nat) (shadow operand : Word) : Bool :=
  match c with
  | .equal => shadow == operand
  | .unequal => shadow != operand
  | .below => decide (shadow.toNat < operand.toNat)
  | .atLeast => decide (operand.toNat ≤ shadow.toNat)
  | .above => decide (operand.toNat < shadow.toNat)
  | .atMost => decide (shadow.toNat ≤ operand.toNat)
  | .less => decide (signedAt width shadow < signedAt width operand)
  | .notLess => decide (signedAt width operand ≤ signedAt width shadow)
  | .greater => decide (signedAt width operand < signedAt width shadow)
  | .notGreater => decide (signedAt width shadow ≤ signedAt width operand)
  | .changed => false

/-- R6: whether a write of the given lanes touches a field. -/
def touchesField (l : Lanes) (lowBit width : Nat) : Bool := (fieldMask lowBit width &&& l.mask) != 0

/-- R6: the shadow after a write: the field's bits in written lanes from the data, the others kept. -/
def shadowAfter (lowBit width : Nat) (l : Lanes) (data shadow : Word) : Word :=
  extractField (mergeLanes l (shadow <<< lowBit) data) lowBit width

/-- R7: whether a write fires a watch whose shadow and truth went from the old to the new values. -/
def firesOn (c : Condition) (accepted : Bool) (oldShadow newShadow : Word) (oldTruth newTruth : Bool) : Bool :=
  match c with
  | .changed => accepted && (oldShadow != newShadow)
  | .equal | .unequal | .below | .atLeast | .above | .atMost | .less | .notLess | .greater | .notGreater =>
    accepted && !oldTruth && newTruth

/-! ### Effects -/

/-- R103: the sum of an unsigned field and a signed addend, saturated at the field's width. -/
def addSaturated (width : Nat) (old addend : Word) : Word :=
  let sum : Int := (old.toNat : Int) + addend.toInt
  if sum < 0 then 0
  else if ((2 ^ width - 1 : Nat) : Int) < sum then BitVec.ofNat 32 (2 ^ width - 1)
  else BitVec.ofNat 32 sum.toNat

/-- R95, R101 to R104: the new value of the target field from its old value, the record and the captured shadow. -/
def newFieldValue (r : EffectRec) (captured old : Word) : Word :=
  match r.kind with
  | .setBit => 1
  | .clearBit => 0
  | .flipBit => if old = 0 then 1 else 0
  | .writeField => truncateTo r.width r.value
  | .writeIf => truncateTo r.width r.value
  | .addField => addSaturated r.width old r.value
  | .copyShadow => truncateTo r.width captured

/-! ### Causes -/

/-- A set holding cause `n` alone: bit `n − 1` (12_memory_formats). -/
def causeBit (n : Nat) : CauseSet := BitVec.ofNat 15 (2 ^ (n - 1))

/-- The highest-numbered cause of a set, or 0 (R169 step 3). -/
def highestCause (c : CauseSet) : Nat :=
  (List.range 15).foldl (fun acc i => if c.getLsbD i then i + 1 else acc) 0

def causeNotice : CauseSet := causeBit 1

def causeCmdDone : CauseSet := causeBit 2

/-- R115: timer `n` raises cause `n` + 3. -/
def causeTimer (t : Fin 8) : CauseSet := causeBit (t.val + 3)

def causeAccess : CauseSet := causeBit 11

def causeCascade : CauseSet := causeBit 12

def causeTriggerLost : CauseSet := causeBit 13

def causeNoticeLost : CauseSet := causeBit 14

def causeRingFault : CauseSet := causeBit 15

end Sys2Proof.Machine
end

