-- ==== Sys2Proof/Machine/Ops.lean ====
section
/-! DEFINITION. The named operations over memory, the tables, the snoop stream, the cause unit and the memory port.
Every meaning is built from these. -/

namespace Sys2Proof.Machine

open Sys2Proof

/-! ### Memory -/

/-- The canonical form of memory: addresses strictly rising, no entry equal to what an unlisted address reads as. -/
abbrev Memory.wf (m : Memory) : Prop :=
  m.Pairwise (fun a b => a.1 < b.1) ∧ ∀ c ∈ m, c.2 ≠ Config.unwritten

/-- The byte at an address; `Config.unwritten` where nothing is listed (log 4). -/
def readByte : Memory → Nat → Byte
  | [], _ => Config.unwritten
  | c :: rest, a => if a = c.1 then c.2 else readByte rest a

/-- Memory with one byte written, in canonical form. -/
def writeByte : Memory → Nat → Byte → Memory
  | [], a, v => if v = Config.unwritten then [] else [(a, v)]
  | c :: rest, a, v =>
    if a < c.1 then (if v = Config.unwritten then c :: rest else (a, v) :: c :: rest)
    else if a = c.1 then (if v = Config.unwritten then rest else (a, v) :: rest)
    else c :: writeByte rest a v

/-- The word at a word address: lane `i` is the byte at address + `i` (R146). -/
def readWord (m : Memory) (a : Nat) : Word :=
  BitVec.ofNat 32
    ((readByte m a).toNat + 0x100 * (readByte m (a + 1)).toNat + 0x10000 * (readByte m (a + 2)).toNat
      + 0x1000000 * (readByte m (a + 3)).toNat)

/-- One byte written where its lane is among those written. -/
def writeLane (m : Memory) (a : Nat) (on : Bool) (v : Byte) : Memory := if on then writeByte m a v else m

/-- A word's lanes written at a word address (R146: the other lanes keep their contents). -/
def writeLanes (m : Memory) (a : Nat) (l : Lanes) (w : Word) : Memory :=
  writeLane
    (writeLane (writeLane (writeLane m a l.l0 (laneByte w 0)) (a + 1) l.l1 (laneByte w 1)) (a + 2) l.l2
      (laneByte w 2))
    (a + 3) l.l3 (laneByte w 3)

/-- A whole word written. -/
def writeWord (m : Memory) (a : Nat) (w : Word) : Memory := writeLanes m a Lanes.all w

/-! ### The control page (R154, R164) -/

def causeOff : Nat := 0x000
def enableOff : Nat := 0x004
def vectorOff : Nat := 0x008
def turnOff : Nat := 0x00C
def revealOff : Nat := 0x010
def produceOff : Nat := 0x020
def consumeOff : Nat := 0x024
def noticeProduceOff : Nat := 0x028
def noticeConsumeOff : Nat := 0x02C
def faultOff : Nat := 0x030
def ringOff : Nat := 0x800

/-- The end of installed memory (R154). -/
def State.installed (s : State) : Nat := Config.installedSize s.msz256

/-- The control page's base (R154). -/
def State.pageBase (s : State) : Nat := Config.pageBase s.msz256 s.cpselHigh

/-- The address of an offset of the control page. -/
def State.pageAddr (s : State) (off : Nat) : Nat := s.pageBase + off

/-- Whether an address lies in the control page. -/
def State.inPage (s : State) (a : Nat) : Bool :=
  decide (s.pageBase ≤ a) && decide (a < s.pageBase + Config.pageSize)

/-- Whether a word address is one of the four reveal words (R164). -/
def State.isRevealWord (s : State) (a : Nat) : Bool :=
  decide (s.pageAddr revealOff ≤ a) && decide (a < s.pageAddr revealOff + 16)

/-- Which reveal word (0 to 3) an address of one lies in (R140). -/
def State.revealIndex (s : State) (a : Nat) : Fin 4 := Fin.ofNat 4 ((a - s.pageAddr revealOff) / 4)

/-! ### Tables -/

def State.watch (s : State) (w : Fin 64) : Watch := s.watches[w]

def State.updWatch (s : State) (w : Fin 64) (f : Watch → Watch) : State :=
  { s with watches := s.watches.set w.val (f (s.watch w)) w.isLt }

def State.quest (s : State) (q : Fin 32) : Quest := s.quests[q]

def State.updQuest (s : State) (q : Fin 32) (f : Quest → Quest) : State :=
  { s with quests := s.quests.set q.val (f (s.quest q)) q.isLt }

def State.timer (s : State) (t : Fin 8) : Timer := s.timers[t]

def State.updTimer (s : State) (t : Fin 8) (f : Timer → Timer) : State :=
  { s with timers := s.timers.set t.val (f (s.timer t)) t.isLt }

def State.region (s : State) (n : Fin 16) : Region := s.regions[n]

/-- Record `n` of the step pool (R29). -/
def State.stepRec (s : State) (n : Nat) : StepRec := if h : n < 128 then s.steps[n] else StepRec.zeroed

/-- Record `n` of the effect pool (R94). -/
def State.effectRec (s : State) (n : Nat) : EffectRec := if h : n < 96 then s.effects[n] else EffectRec.zeroed

/-- R30: step `i` of a quest is the record at first step + `i`. -/
def State.questStep (s : State) (q : Fin 32) (i : Nat) : StepRec := s.stepRec ((s.quest q).firstStep + i)

/-- The record of a quest's current step. -/
def State.currentStep (s : State) (q : Fin 32) : StepRec := s.questStep q (s.quest q).current

/-- The port of a master. -/
def State.port (s : State) : Master → MasterPort
  | .proc => s.procPort
  | .scan => s.scanPort

def State.setPort (s : State) (m : Master) (p : MasterPort) : State :=
  match m with
  | .proc => { s with procPort := p }
  | .scan => { s with scanPort := p }

/-! ### Causes and faults -/

/-- A raise reaches the cause unit (R169): a cause already in the arrivals or the working set is unchanged. -/
def State.raise (s : State) (c : CauseSet) : State :=
  { s with cause.arrivals := s.cause.arrivals ||| (c &&& ~~~s.cause.working) }

/-- R156: the fault record takes the fault's values, and ACCESS is raised. -/
def State.recordFault (s : State) (w : Writer) (d : Direction) (a : Nat) : State :=
  State.raise { s with fault := { writer := w, dir := d, addr := BitVec.ofNat 24 a } } causeAccess

/-! ### The snoop stream (R151) -/

/-- Whether a block has yet to take an item. -/
def StreamItem.due (it : StreamItem) : Snooper → Bool
  | .watch => it.watchDue
  | .fog => it.fogDue
  | .page => it.pageDue

/-- The item once a block has taken it. -/
def StreamItem.taken (it : StreamItem) : Snooper → StreamItem
  | .watch => { it with watchDue := false }
  | .fog => { it with fogDue := false }
  | .page => { it with pageDue := false }

/-- Whether some block has yet to take the item. -/
def StreamItem.standing (it : StreamItem) : Bool := it.watchDue || it.fogDue || it.pageDue

/-- Whether an item is an entry, that is, a completed write (R151; log 6). -/
def StreamItem.isEntry (it : StreamItem) : Bool :=
  match it.body with
  | .write _ => true
  | .syncMark _ => false

/-- Whether an item concerns a block (R151): the watch unit takes every item; the fog unit the writes of the
reveal words (R140); the control-page unit those of its four words (R166, R167, R168). -/
def State.concerns (s : State) (b : Snooper) (body : StreamBody) : Bool :=
  match body with
  | .syncMark _ => b == .watch
  | .write w =>
    match b with
    | .watch => true
    | .fog => s.isRevealWord w.addr
    | .page =>
      w.addr == s.pageAddr enableOff || w.addr == s.pageAddr turnOff || w.addr == s.pageAddr produceOff
        || w.addr == s.pageAddr noticeConsumeOff

/-- A block passes over the items that do not concern it, up to the first that does (R151; log 7). -/
def passOver (concerns : StreamBody → Bool) (b : Snooper) : List StreamItem → List StreamItem
  | [] => []
  | it :: rest =>
    if it.due b then (if concerns it.body then it :: rest else it.taken b :: passOver concerns b rest)
    else it :: passOver concerns b rest

/-- A block takes its next item. -/
def takeFirst (b : Snooper) : List StreamItem → List StreamItem
  | [] => []
  | it :: rest => if it.due b then it.taken b :: rest else it :: takeFirst b rest

/-- The stream once the fog unit and the control-page unit have passed over what does not concern them, without
the items that all three blocks have taken. -/
def State.tidyStream (s : State) : State :=
  { s with
    stream :=
      (passOver (s.concerns .page) .page (passOver (s.concerns .fog) .fog s.stream)).filter
        StreamItem.standing }

/-- A completed write or read completion enters the stream (R151). -/
def State.pushStream (s : State) (body : StreamBody) : State :=
  State.tidyStream
    { s with stream := s.stream ++ [{ body := body, watchDue := true, fogDue := true, pageDue := true }] }

/-- The next item that a block has yet to take. -/
def State.nextFor (s : State) (b : Snooper) : Option StreamBody :=
  (s.stream.find? (fun it => it.due b)).map StreamItem.body

/-- The stream after a block has taken its next item. -/
def State.takeFor (s : State) (b : Snooper) : State :=
  State.tidyStream { s with stream := takeFirst b s.stream }

/-- R151: how many entries stand that some block has not yet taken. -/
def State.entriesStanding (s : State) : Nat := s.stream.countP StreamItem.isEntry

/-- The IR's write of a word with writer PART (R146, R164), entering the snoop stream. -/
def State.partWrite (s : State) (a : Nat) (w : Word) : State :=
  State.pushStream { s with mem := writeWord s.mem a w }
    (.write { addr := a, lanes := Lanes.all, data := w, writer := .part, depth := 0, atPowerOn := false })

/-! ### The region decoder's decision (R98, R153) -/

/-- An address lies in an enabled entry (R152). -/
def Region.covers (r : Region) (a : Nat) : Bool :=
  r.enabled && decide (r.base ≤ a) && decide (a < r.limit)

/-- The governing entry: the highest-numbered enabled entry that contains the address (R137, R153). -/
def State.governing (s : State) (a : Nat) : Option Region :=
  (List.finRange 16).foldl (fun acc n => if (s.region n).covers a then some (s.region n) else acc) none

/-- The right that a master access needs (R153). -/
def Rights.forMaster (r : Rights) (m : Master) (d : Direction) : Bool :=
  match m, d with
  | .proc, .read => r.procRead
  | .proc, .write => r.procWrite
  | .scan, .read => r.scanRead
  | .scan, .write => r.scanWrite

/-- R153: whether a master access is permitted. The first case that applies decides. -/
def State.permits (s : State) (m : Master) (a : Access) : Bool :=
  if s.installed ≤ a.addr.toNat || misaligned a then false
  else if s.inPage (wordAddrOf a) then (match m with | .proc => true | .scan => false)
  else
    match s.governing (wordAddrOf a) with
    | some r => r.rights.forMaster m a.dir
    | none => true

/-- R98: whether an effect's target word may be written. The first case that applies decides. -/
def State.permitsEffect (s : State) (a : Nat) : Bool :=
  if s.installed ≤ a then false
  else if a = s.pageAddr turnOff then true
  else if s.isRevealWord a then true
  else if s.inPage a then false
  else
    match s.governing a with
    | some r => r.rights.effectWrite
    | none => true

/-! ### The IR's sub-clients (R149) -/

/-- The effect unit's request (R98). -/
def State.effectRequest (s : State) : Option IRAccess :=
  match s.effectUnit with
  | .grantWait _ => some .effectRmw
  | .idle => none
  | .settling _ _ => none

/-- The watch unit's request (R13). -/
def State.watchRequest (s : State) : Option IRAccess :=
  match s.syncRead with
  | some r => if r.completed then none else some .syncRead
  | none => none

/-- The cause unit's request (R169, R173). The fault word goes before the cause word whenever the fault record
differs from the one last written (R156; log 11). -/
def State.causeRequest (s : State) : Option IRAccess :=
  match s.cause.publication with
  | .idle => none
  | .raising => if s.fault = s.cause.lastFault then some .causeWrite else some .faultWrite
  | .vectoring => some .vectorWrite
  | .resetCause => some .resetWrite
  | .resetVector => some .resetWrite

/-- The notice writer's request (R188, R191). -/
def State.noticeRequest (s : State) : Option IRAccess :=
  match s.notice.writer with
  | .writing _ => some .elementWrite
  | .publishing => some .produceWrite
  | .idle => if s.notice.indexWrites = 0 then none else some .ringIndexWrite

/-- The command unit's request (R177, R180, R181). -/
def State.commandRequest (s : State) : Option IRAccess :=
  match s.cmd with
  | .idle => none
  | .fetching _ => some .fetchRead
  | .dispatched _ _ => none
  | .reporting _ _ results => if results.isEmpty then some .statusWrite else some .resultWrite
  | .advancing => some .consumeWrite

/-- R149: the request of the sub-client at the lowest place that has one ready. -/
def State.irRequest (s : State) : Option IRAccess :=
  s.effectRequest <|> s.watchRequest <|> s.causeRequest <|> s.noticeRequest <|> s.commandRequest

/-! ### The arbiter (R147, R148) -/

/-- The master other than the given one. -/
def otherMaster : Master → Master
  | .proc => .scan
  | .scan => .proc

/-- R148: the grant that the arbiter makes among the requesters that wait. -/
def chooseGrant (ir : Option IRAccess) (proc scan previousIR : Bool) (last : Master) : Option Grant :=
  match ir, proc, scan with
  | none, false, false => none
  | some a, false, false => some (.ir a)
  | none, true, false => some (.master .proc)
  | none, false, true => some (.master .scan)
  | none, true, true => some (.master (otherMaster last))
  | some a, true, false => if previousIR then some (.master .proc) else some (.ir a)
  | some a, false, true => if previousIR then some (.master .scan) else some (.ir a)
  | some a, true, true => if previousIR then some (.master (otherMaster last)) else some (.ir a)

/-- R147, R151: when the port is FREE, nobody is held and the stream has a place, the arbiter grants. -/
def State.arbitrate (s : State) : State :=
  if s.mpa.port.isSome || s.mpa.hold || decide (4 ≤ s.entriesStanding) then s
  else
    { s with
      mpa.port :=
        chooseGrant s.irRequest s.procPort.access.isSome s.scanPort.access.isSome s.mpa.previousIR
          s.mpa.lastMaster }

/-- R169: whether an IDLE cause unit begins a publication. -/
def State.publicationDue (s : State) : Bool :=
  s.cause.arrivals != 0 || s.cause.working != s.cause.pendingSet || s.cause.handed != s.cause.enableSet
    || s.fault != s.cause.lastFault

/-- R169: an IDLE cause unit begins a publication when one is due. -/
def State.beginPublication (s : State) : State :=
  if s.cause.publication = .idle && s.publicationDue then { s with cause.publication := .raising } else s

/-- What follows at once from every step: the cause unit begins a publication where one is due, and the arbiter
grants a free port. -/
def State.react (s : State) : State := s.beginPublication.arbitrate

/-- The outcome of a step that takes place. -/
def State.done (s : State) : Host.Outcome State Fault Refusal := .next s.react

/-- R147: the end of a master's grant: its access is answered. -/
def State.endMasterGrant (s : State) (m : Master) (data : Word) : State :=
  { s.setPort m { access := none, data := data } with
    mpa := { s.mpa with port := none, lastMaster := m, previousIR := false } }

/-- R147: the end of an IR grant. -/
def State.endIRGrant (s : State) : State := { s with mpa := { s.mpa with port := none, previousIR := true } }

/-! ### An effect's read-modify-write (R100), and the end of a withdrawn grant -/

/-- The target field's old value in the word read. -/
def EffectJob.oldValue (j : EffectJob) (word : Word) : Word :=
  extractField word j.record.lowBit j.record.width

/-- The target field's new value (R101 to R104). -/
def EffectJob.newValue (j : EffectJob) (word : Word) : Word :=
  newFieldValue j.record j.captured (j.oldValue word)

/-- The word to write: the new value in the field, every other bit as read (R100). -/
def EffectJob.newWord (j : EffectJob) (word : Word) : Word :=
  insertField word j.record.lowBit j.record.width (j.newValue word)

/-- R100, R105: the read and the write of one effect, in one grant; the write enters the snoop stream with writer
EFFECT and the work item's depth. -/
def State.effectTransfer (s : State) (j : EffectJob) : State :=
  let word := j.newWord (readWord s.mem j.record.addr)
  State.pushStream { s with mem := writeWord s.mem j.record.addr word }
    (.write
      { addr := j.record.addr, lanes := Lanes.all, data := word, writer := .effect, depth := j.depth,
        atPowerOn := false })

/-- What is left of a grant that a warm reset has withdrawn: the access ends without its block (R162; log 19). A
denied effect makes no transfer, and its fault has been discarded by the reset (R114, R162). -/
def State.endOrphan (s : State) (op : OrphanOp) : State :=
  match op with
  | .read => s.endIRGrant
  | .write a w => (s.partWrite a w).endIRGrant
  | .effect j => if s.permitsEffect j.record.addr then (s.effectTransfer j).endIRGrant else s.endIRGrant

/-! ### The watch unit's synchronising read (R13) -/

/-- The lowest-numbered SYNCING watch. -/
def State.lowestSyncing (s : State) : Option (Fin 64) :=
  (List.finRange 64).find? (fun w => (s.watch w).state == .syncing)

/-- R13: when no read is outstanding, the watch unit asks for the word of the lowest-numbered SYNCING watch. While it
has yet to take a warm reset it asks for none, since no read survives the reset (R26; log 32). -/
def State.issueSync (s : State) : State :=
  match s.watchReset, s.syncRead with
  | some _, _ => s
  | none, some _ => s
  | none, none =>
    match s.lowestSyncing with
    | none => s
    | some w =>
      { s with syncRead := some { watch := w, addr := (s.watch w).addr, completed := false, stale := false } }

/-- The outstanding read, given up by its watch (R16, R26). -/
def State.staleSync (s : State) : State :=
  match s.syncRead with
  | none => s
  | some r => { s with syncRead := some { r with stale := true } }

/-! ### The command unit's handover and result (R179) -/

/-- The words of a command with the given code that the command unit has handed over and its block has not taken. -/
def State.handed (s : State) (code : Nat) : Option (List Word) :=
  match s.cmd with
  | .dispatched words false => if codeOf words = code then some words else none
  | .dispatched _ true => none
  | .idle => none
  | .fetching _ => none
  | .reporting _ _ _ => none
  | .advancing => none

/-- The block has taken the command and will report later. -/
def State.takeCommand (s : State) : State :=
  match s.cmd with
  | .dispatched words _ => { s with cmd := .dispatched words true }
  | .idle => s
  | .fetching _ => s
  | .reporting _ _ _ => s
  | .advancing => s

/-- The block reports its result (R179): the result words follow the command's one data word (R180). -/
def State.report (s : State) (st : Status) (results : List Word) : State :=
  { s with cmd := .reporting st 3 results }

/-- On entering IDLE, and on accepting a produce value while IDLE, the command unit compares (R176). -/
def State.compareIndexes (s : State) : State :=
  if s.consumeIndex = s.page.produce then { s with cmd := .idle } else { s with cmd := .fetching [] }

/-! ### The trigger queue (R58, R59, R60) -/

def Trigger.isWatch : Trigger → Bool
  | .watch _ _ _ => true
  | .expiry _ _ => false

/-- Whether an entry is the EXPIRY entry of a timer. -/
def Trigger.isExpiryOf (t : Fin 8) : Trigger → Bool
  | .watch _ _ _ => false
  | .expiry u _ => u == t

/-- Whether an entry is a WATCH entry of a watch. -/
def Trigger.isWatchOf (w : Fin 64) : Trigger → Bool
  | .watch v _ _ => v == w
  | .expiry _ _ => false

/-- R58: a WATCH offer has room when fewer than 16 WATCH entries stand. -/
def State.watchRoom (s : State) : Bool := decide (s.queue.countP Trigger.isWatch < 16)

/-- R60: an EXPIRY offer joins the tail, or merges into the timer's standing entry. -/
def offerExpiry (queue : List Trigger) (t : Fin 8) (binder : Option (Fin 32)) : List Trigger :=
  if queue.any (Trigger.isExpiryOf t) then
    queue.map (fun e => if e.isExpiryOf t then .expiry t binder else e)
  else queue ++ [.expiry t binder]

end Sys2Proof.Machine
end

