-- ==== Sys2Proof/Machine/Causes.lean ====
section
/-! DEFINITION. The cause unit's publication (R156, R169, R171) and its two writes after a warm reset (R173). -/

namespace Sys2Proof.Machine

open Sys2Proof

/-- The fault word's value (12.1). -/
def FaultRec.word (f : FaultRec) : Word :=
  BitVec.ofNat 32
    (fieldAt 0 24 f.addr.toNat + fieldAt 24 1 (match f.dir with | .read => 0 | .write => 1)
      + fieldAt 28 2 f.writer.code)

/-- R169 step 1: the fault word is written with the fault record as it stands. -/
def State.publishFault (s : State) : State :=
  let s1 := s.partWrite (s.pageAddr faultOff) s.fault.word
  { s1 with cause := { s1.cause with lastFault := s.fault } }

/-- R169 step 2: the working set gains the arrivals, and the cause word is written with it. -/
def State.publishCauses (s : State) : State :=
  let working := s.cause.working ||| s.cause.arrivals
  let s1 := s.partWrite (s.pageAddr causeOff) (working.setWidth 32)
  { s1 with cause := { s1.cause with working := working, arrivals := 0, publication := .vectoring } }

/-- R169 step 3: the number written to the vector word. -/
def State.vectorNow (s : State) : Nat := highestCause (s.cause.working &&& s.cause.handed)

/-- R169 steps 3 and 4, R171: the vector word is written; the pending set, the enable set, the vector and INT settle. -/
def State.publishVector (s : State) : State :=
  let s1 := s.partWrite (s.pageAddr vectorOff) (BitVec.ofNat 32 s.vectorNow)
  { s1 with
    cause :=
      { s1.cause with
        pendingSet := s.cause.working
        enableSet := s.cause.handed
        vector := BitVec.ofNat 4 s.vectorNow
        int := s.cause.working &&& s.cause.handed != 0
        publication := .idle } }

/-- R173: the write of 0 to the cause word, then to the vector word. -/
def State.resetCauseWrite (s : State) : State :=
  match s.cause.publication with
  | .resetCause =>
    let s1 := s.partWrite (s.pageAddr causeOff) 0
    { s1 with cause := { s1.cause with publication := .resetVector } }
  | .resetVector =>
    let s1 := s.partWrite (s.pageAddr vectorOff) 0
    { s1 with cause := { s1.cause with publication := .idle } }
  | .idle => s
  | .raising => s
  | .vectoring => s

/-- FAULT_WORD_WRITE (R156, R169). -/
def execFaultWordWrite (s : State) : Host.Outcome State Fault Refusal :=
  match s.mpa.port with
  | some (.ir .faultWrite) => (s.endIRGrant.publishFault).done
  | some (.orphan .faultWrite op) => (s.endOrphan op).done
  | _ => .next s

/-- CAUSE_WORD_PUBLISH (R169). -/
def execCauseWordPublish (s : State) : Host.Outcome State Fault Refusal :=
  match s.mpa.port with
  | some (.ir .causeWrite) => (s.endIRGrant.publishCauses).done
  | some (.orphan .causeWrite op) => (s.endOrphan op).done
  | _ => .next s

/-- VECTOR_WORD_PUBLISH (R169, R171). -/
def execVectorWordPublish (s : State) : Host.Outcome State Fault Refusal :=
  match s.mpa.port with
  | some (.ir .vectorWrite) => (s.endIRGrant.publishVector).done
  | some (.orphan .vectorWrite op) => (s.endOrphan op).done
  | _ => .next s

/-- WARM_RESET_CAUSE_WRITE (R173). -/
def execWarmResetCauseWrite (s : State) : Host.Outcome State Fault Refusal :=
  match s.mpa.port with
  | some (.ir .resetWrite) => (s.endIRGrant.resetCauseWrite).done
  | some (.orphan .resetWrite op) => (s.endOrphan op).done
  | _ => .next s

end Sys2Proof.Machine
end

