-- ==== Sys2Proof/Machine/Regions.lean ====
section
/-! DEFINITION. The region commands (08 and 07): SET REGION with its fog checks, CLEAR REGION, and the pending change. -/

namespace Sys2Proof.Machine

open Sys2Proof

/-- The rights of a SET REGION (12.7: bits 8 to 12 of word 2). -/
def rightsOfWord (w : Word) : Rights := ⟨bit w 8, bit w 9, bit w 10, bit w 11, bit w 12⟩

/-- R136: the fog checks of a SET REGION whose fog flag is set: size and last tile, for a stride. -/
def fogAccepted (stride : TileStride) (firstTile base limit : Nat) : Bool :=
  decide (firstTile ≤ 127) && (limit - base) % stride.bytes == 0
    && decide (firstTile + (limit - base) / stride.bytes - 1 ≤ 127)

/-- R157 check 2: base and limit. -/
def State.boundsAccepted (s : State) (base limit : Nat) : Bool :=
  base % 64 == 0 && limit % 64 == 0 && decide (base < limit) && decide (limit ≤ s.installed)
    && !(decide (base < s.pageBase + Config.pageSize) && decide (s.pageBase < limit))

/-- The entry that a SET REGION gives, or none where a check of R136 or R157 fails. With the fog flag clear the fog
fields take their cleared values (R134). -/
def State.regionOf (s : State) (words : List Word) : Option Region :=
  let w2 := wordAt words 2
  let base := (wordAt words 3).toNat
  let limit := (wordAt words 4).toNat
  if 31 < bits w2 8 8 ∨ s.boundsAccepted base limit = false then none
  else if bit w2 16 then
    match strideOfCode (bits w2 20 3) with
    | none => none
    | some stride =>
      if fogAccepted stride (bits w2 24 8) base limit then
        some
          { enabled := true, base := base, limit := limit, rights := rightsOfWord w2, fog := true,
            stride := stride, firstTile := bits w2 24 8, fogWord := wordAt words 5 }
      else none
  else
    some
      { enabled := true, base := base, limit := limit, rights := rightsOfWord w2, fog := false, stride := .b16,
        firstTile := 0, fogWord := 0 }

/-- R158: the decoder holds the new contents as a pending change and reports OK. -/
def State.holdRegion (s : State) (n : Fin 16) (r : Region) : State :=
  State.report { s with pendingRegion := some (n, r) } .ok []

/-- R158: the pending change is installed in the map. -/
def State.installRegion (s : State) : State :=
  match s.pendingRegion with
  | none => s
  | some c => { s with regions := s.regions.set c.1.val c.2 c.1.isLt, pendingRegion := none }

/-- SET REGION (R157). -/
def State.setRegion (s : State) (words : List Word) : State :=
  match regionNumber (bits (wordAt words 2) 0 8) with
  | none => s.report .outOfRange []
  | some n =>
    match s.regionOf words with
    | none => s.report .badField []
    | some r => s.holdRegion n r

/-- CLEAR REGION (R159). -/
def State.clearRegion (s : State) (words : List Word) : State :=
  match regionNumber (bits (wordAt words 2) 0 8) with
  | none => s.report .outOfRange []
  | some n => s.holdRegion n Region.cleared

/-- SET_REGION (R157, R158). -/
def execSetRegion (s : State) : Host.Outcome State Fault Refusal :=
  match s.handed 0x40 with
  | some words => (s.setRegion words).done
  | none => .next s

/-- CLEAR_REGION (R158, R159). -/
def execClearRegion (s : State) : Host.Outcome State Fault Refusal :=
  match s.handed 0x41 with
  | some words => (s.clearRegion words).done
  | none => .next s

end Sys2Proof.Machine
end

