-- ==== Sys2Proof/Machine/CommandRing.lean ====
section
/-! DEFINITION. The command unit (10): fetching a block, its header checks, the answer and the consume index. -/

namespace Sys2Proof.Machine

open Sys2Proof

/-- The length that a code requires (Commands and where they are specified); the two DEFINE commands take it from
their record count (R178). -/
inductive RequiredLength
  | fixed (n : Nat)
  | byCount
  deriving DecidableEq, Repr

/-- R178 check 1: the codes of the command table. -/
def requiredLength : Nat → Option RequiredLength
  | 0x10 => some (.fixed 24)
  | 0x11 => some (.fixed 24)
  | 0x12 => some (.fixed 12)
  | 0x13 => some (.fixed 12)
  | 0x14 => some (.fixed 12)
  | 0x20 => some .byCount
  | 0x21 => some .byCount
  | 0x22 => some (.fixed 16)
  | 0x23 => some (.fixed 12)
  | 0x24 => some (.fixed 12)
  | 0x25 => some (.fixed 12)
  | 0x26 => some (.fixed 12)
  | 0x27 => some (.fixed 12)
  | 0x28 => some (.fixed 12)
  | 0x30 => some (.fixed 16)
  | 0x31 => some (.fixed 12)
  | 0x32 => some (.fixed 12)
  | 0x33 => some (.fixed 12)
  | 0x34 => some (.fixed 12)
  | 0x40 => some (.fixed 24)
  | 0x41 => some (.fixed 12)
  | 0x50 => some (.fixed 16)
  | _ => none

/-- What the command unit does after a word of the block (R177, R178). -/
inductive HeaderCheck
  | refuse (st : Status)
  | more
  | dispatch
  deriving DecidableEq, Repr

/-- R177: whether all words of the length have been read. -/
def lengthReached (words : List Word) : HeaderCheck :=
  if words.length < lengthOf words / 4 then .more else .dispatch

/-- R178: the header checks on the words read so far, word 0 at least. -/
def headerCheck (words : List Word) : HeaderCheck :=
  match requiredLength (codeOf words) with
  | none => .refuse .badCode
  | some (.fixed n) => if lengthOf words = n then lengthReached words else .refuse .badLength
  | some .byCount =>
    if words.length < 3 then .more
    else
      let count := bits (wordAt words 2) 16 8
      if count = 0 ∨ 4 < count then .refuse .badField
      else if lengthOf words = 12 + 12 * count then lengthReached words
      else .refuse .badLength

/-- The address of word `k` of the slot that the consume index names (R174). -/
def State.slotAddr (s : State) (k : Nat) : Nat := s.pageAddr ringOff + 64 * s.consumeIndex + 4 * k

/-- R177 to R179: one more word of the block, and what follows from the header checks. -/
def State.fetched (s : State) (words : List Word) : State :=
  match headerCheck words with
  | .refuse st => { s with cmd := .reporting st 3 [] }
  | .more => { s with cmd := .fetching words }
  | .dispatch => { s with cmd := .dispatched words false }

/-- The status word (R180): the code, with the DONE bit. -/
def statusWord (st : Status) : Word := BitVec.ofNat 32 (fieldAt 0 8 st.code + flagAt 31 true)

/-- R180: the first result word still to be written is written. -/
def State.writeResult (s : State) (st : Status) (next : Nat) (results : List Word) : State :=
  match results with
  | [] => s
  | r :: rest =>
    let s1 := s.partWrite (s.slotAddr next) r
    { s1 with cmd := .reporting st (next + 1) rest }

/-- R158, R180, R181: the status word is written, a pending region change being installed at its grant; then
CMD_DONE is raised and the consume index advances. -/
def State.writeStatus (s : State) (st : Status) : State :=
  let s1 := s.installRegion.partWrite (s.slotAddr 1) (statusWord st)
  State.raise { s1 with consumeIndex := (s.consumeIndex + 1) % 32, cmd := .advancing } causeCmdDone

/-- R181, R176: the consume index is written, and the command unit enters IDLE and compares. -/
def State.writeConsume (s : State) : State :=
  State.compareIndexes (s.partWrite (s.pageAddr consumeOff) (BitVec.ofNat 32 s.consumeIndex))

/-- COMMAND_FETCH_READ (R177, R178, R179). -/
def execCommandFetchRead (s : State) : Host.Outcome State Fault Refusal :=
  match s.mpa.port, s.cmd with
  | some (.ir .fetchRead), .fetching words =>
    (s.endIRGrant.fetched (words ++ [readWord s.mem (s.slotAddr words.length)])).done
  | some (.orphan .fetchRead op), _ => (s.endOrphan op).done
  | _, _ => .next s

/-- RESULT_WORD_WRITE (R180). -/
def execResultWordWrite (s : State) : Host.Outcome State Fault Refusal :=
  match s.mpa.port, s.cmd with
  | some (.ir .resultWrite), .reporting st next results => (s.endIRGrant.writeResult st next results).done
  | some (.orphan .resultWrite op), _ => (s.endOrphan op).done
  | _, _ => .next s

/-- STATUS_WORD_WRITE (R158, R180, R181). -/
def execStatusWordWrite (s : State) : Host.Outcome State Fault Refusal :=
  match s.mpa.port, s.cmd with
  | some (.ir .statusWrite), .reporting st _ _ => (s.endIRGrant.writeStatus st).done
  | some (.orphan .statusWrite op), _ => (s.endOrphan op).done
  | _, _ => .next s

/-- CONSUME_INDEX_WRITE (R176, R181, R184). -/
def execConsumeIndexWrite (s : State) : Host.Outcome State Fault Refusal :=
  match s.mpa.port with
  | some (.ir .consumeWrite) => (s.endIRGrant.writeConsume).done
  | some (.orphan .consumeWrite op) => (s.endOrphan op).done
  | _ => .next s

end Sys2Proof.Machine
end

