-- ==== Sys2Proof/Machine/Notices.lean ====
section
/-! DEFINITION. The notice writer (11_notices): the element's words, the hold queue, the ring and its index writes,
SET NOTICE RING. -/

namespace Sys2Proof.Machine

open Sys2Proof

/-! ### The eight words of an element (12.8) -/

/-- Word 2 bits 0 to 7: two bits an effect, none (3) beyond the effect count. -/
def statusesCode (l : List EffectStatus) : Nat :=
  let at' := fun i => match l[i]? with | some x => EffectStatus.code x | none => 3
  at' 0 + 4 * at' 1 + 16 * at' 2 + 64 * at' 3

def sourceWord : Source → Nat
  | .watch w writer depth =>
    fieldAt 0 2 0 + fieldAt 8 8 w.val + fieldAt 16 3 writer.code + fieldAt 24 4 depth
  | .expiry t => fieldAt 0 2 1 + fieldAt 8 8 t.val + fieldAt 16 3 7 + fieldAt 24 4 0
  | .command code => fieldAt 0 2 2 + fieldAt 8 8 code + fieldAt 16 3 7 + fieldAt 24 4 0

/-- The words of a notice element, word 0 first (12.8, R193). -/
def Notice.words (n : Notice) : List Word :=
  [ BitVec.ofNat 32
      (fieldAt 0 3 n.kind.code + fieldAt 8 8 n.number
        + fieldAt 16 4 (match n.step with | some i => i | none => 0xF)
        + fieldAt 24 4 (match n.owner with | some o => o.code | none => 0xF)),
    n.tag,
    BitVec.ofNat 32
      (fieldAt 0 8 (statusesCode n.statuses)
        + fieldAt 8 2 (match n.ended with | some e => e.code | none => 3)
        + fieldAt 12 3 (reasonCode n.reason)
        + fieldAt 16 4 (timerCode n.timer)
        + fieldAt 20 2 (match n.offer with | some o => o.code | none => 3)),
    n.old,
    n.new,
    BitVec.ofNat 32 (sourceWord n.source),
    n.turn,
    BitVec.ofNat 32
      (fieldAt 0 8 (questCode n.parent) + fieldAt 8 8 (questCode n.child) + fieldAt 16 2 n.depth) ]

/-! ### The hold queue and the ring -/

/-- R188: room exists while (produce index + 1) mod size differs from the consume copy. -/
def State.ringRoom (s : State) : Bool :=
  (s.notice.produce + 1) % s.notice.size != s.page.consume

/-- R188: an IDLE notice writer, with the ring set, room in it and no index write of R191 outstanding, takes the
oldest notice as the element in progress. -/
def State.examineRing (s : State) : State :=
  match s.notice.writer, s.notice.hold with
  | .idle, n :: rest =>
    if s.notice.ringSet && s.ringRoom && s.notice.indexWrites == 0 && s.notice.pendingConfig.isNone then
      { s with notice := { s.notice with hold := rest, element := some n, writer := .writing 0 } }
    else s
  | .idle, [] => s
  | .writing _, _ => s
  | .publishing, _ => s

/-- R187: a notice is taken into the hold queue with the turn copy, or discarded with NOTICE_LOST. -/
def State.handNotice (s : State) (n : Notice) : State :=
  if s.notice.hold.length < 8 then
    State.examineRing
      { s with notice := { s.notice with hold := s.notice.hold ++ [{ n with turn := s.page.turn }] } }
  else s.raise causeNoticeLost

/-- R191: a configuration is installed: the ring set, both indexes 0, and the two index writes to be made. -/
def State.installRing (s : State) (base size : Nat) : State :=
  { s with
    notice :=
      { s.notice with
        ringSet := true, base := base, size := size, produce := 0, pendingConfig := none, indexWrites := 2 }
    page := { s.page with consume := 0 } }

/-- R191: what the notice writer does once it is free: the pending configuration is installed, or the ring is
examined (R188). -/
def State.writerFree (s : State) : State :=
  match s.notice.pendingConfig with
  | some c => s.installRing c.1 c.2
  | none => s.examineRing

/-- The address of word `k` of the element that the produce index names (R185). -/
def State.elementAddr (s : State) (k : Nat) : Nat := s.notice.base + 32 * s.notice.produce + 4 * k

/-- Word `k` of the element in progress. -/
def State.elementWord (s : State) (k : Nat) : Word :=
  match s.notice.element with
  | some n => n.words.getD k 0
  | none => 0

/-- R188: word `k` of the element is written; after word 7 the produce index advances. -/
def State.writeElementWord (s : State) (k : Nat) : State :=
  let s1 := s.partWrite (s.elementAddr k) (s.elementWord k)
  if k = 7 then
    { s1 with
      notice := { s1.notice with writer := .publishing, produce := (s1.notice.produce + 1) % s1.notice.size } }
  else { s1 with notice := { s1.notice with writer := .writing (k + 1) } }

/-- R188: the produce index is written, NOTICE is raised and the notice writer is free. -/
def State.publishElement (s : State) : State :=
  let s1 := (s.partWrite (s.pageAddr noticeProduceOff) (BitVec.ofNat 32 s.notice.produce)).raise causeNotice
  State.writerFree { s1 with notice := { s1.notice with writer := .idle, element := none } }

/-- R191: whether the command unit waits for the ring configuration that has been installed. -/
def State.ringCommandWaits (s : State) : Bool :=
  match s.cmd with
  | .dispatched words true => codeOf words == 0x50 && s.notice.pendingConfig.isNone
  | .dispatched _ false => false
  | .idle => false
  | .fetching _ => false
  | .reporting _ _ _ => false
  | .advancing => false

/-- R191: one index write of an installed configuration; OK is reported after the second. -/
def State.writeRingIndex (s : State) : State :=
  if s.notice.indexWrites = 2 then
    let s1 := s.partWrite (s.pageAddr noticeProduceOff) 0
    { s1 with notice := { s1.notice with indexWrites := 1 } }
  else
    let s1 := s.partWrite (s.pageAddr noticeConsumeOff) 0
    let s2 := { s1 with notice := { s1.notice with indexWrites := 0 } }
    State.writerFree (if s2.ringCommandWaits then s2.report .ok [] else s2)

/-! ### SET NOTICE RING -/

/-- The checks of R191: whether base and size are accepted. -/
def State.ringAccepted (s : State) (base size : Nat) : Bool :=
  base % 32 == 0 && decide (8 ≤ size) && decide (size ≤ 256) && decide (base + 32 * size ≤ s.installed)
    && !(decide (base < s.pageBase + Config.pageSize) && decide (s.pageBase < base + 32 * size))

/-- Whether the notice writer can install a configuration at once (R191; log 17). -/
def State.ringFree (s : State) : Bool := s.notice.writer == .idle && s.notice.indexWrites == 0

/-- SET NOTICE RING (R191). -/
def State.setNoticeRing (s : State) (words : List Word) : State :=
  let base := (wordAt words 2).toNat
  let size := (wordAt words 3).toNat
  if s.ringAccepted base size then
    if s.ringFree then (s.takeCommand).installRing base size
    else
      let s1 := s.takeCommand
      { s1 with notice := { s1.notice with pendingConfig := some (base, size) } }
  else s.report .badField []

/-! ### Meanings -/

/-- SET_NOTICE_RING (R191): the notice writer takes the command handed over. -/
def execSetNoticeRing (s : State) : Host.Outcome State Fault Refusal :=
  match s.handed 0x50 with
  | some words => (s.setNoticeRing words).done
  | none => .next s

/-- NOTICE_ELEMENT_WRITE (R188). -/
def execNoticeElementWrite (s : State) : Host.Outcome State Fault Refusal :=
  match s.mpa.port, s.notice.writer with
  | some (.ir .elementWrite), .writing k => (s.endIRGrant.writeElementWord k).done
  | some (.orphan .elementWrite op), _ => (s.endOrphan op).done
  | _, _ => .next s

/-- NOTICE_PRODUCE_WRITE (R188). -/
def execNoticeProduceWrite (s : State) : Host.Outcome State Fault Refusal :=
  if s.mpa.port = some (.ir .produceWrite) then (s.endIRGrant.publishElement).done else .next s

/-- NOTICE_RING_INDEX_WRITE (R191). -/
def execNoticeRingIndexWrite (s : State) : Host.Outcome State Fault Refusal :=
  if s.mpa.port = some (.ir .ringIndexWrite) then (s.endIRGrant.writeRingIndex).done else .next s

end Sys2Proof.Machine
end

