-- ==== Sys2Proof/Machine/Timers.lean ====
section
/-! DEFINITION. The timer unit (06_timers_and_the_beat): clock events, expiry, binding and release, and the timer
commands. -/

namespace Sys2Proof.Machine

open Sys2Proof

/-! ### Expiry -/

/-- R116, R119: a RUNNING timer whose count has reached 0: its expiry is under way (log 9). -/
def Timer.expiryDue (t : Timer) : Bool := t.state == .running && t.count == 0

/-- R120: the timer after its expiry, by its mode. The binder is left as it was. -/
def Timer.afterExpiry (t : Timer) : Timer :=
  match t.mode with
  | .oneShot => { t with state := .stopped, count := 0 }
  | .periodic => if t.reload = 0 then { t with state := .stopped, count := 0 } else { t with count := t.reload }

/-- R121: whether an expiry is offered to the trigger queue. -/
def Timer.offers (t : Timer) : Bool := t.binder.isSome || t.route

/-- R120: the expiry of timer `t`: the raise, the offer (R121), BEAT_OUT for T0 (R122), and the next state. -/
def State.expire (s : State) (t : Fin 8) : State :=
  State.updTimer
    { s.raise (causeTimer t) with
      queue := if (s.timer t).offers then offerExpiry s.queue t (s.timer t).binder else s.queue
      beatOut := if t = 0 then !s.beatOut else s.beatOut }
    t Timer.afterExpiry

/-- The expiries under way, in ascending timer number (R119). The timer unit takes each event whole, so they are
done before it takes any other event (log 9). -/
def State.settleTimers (s : State) : State :=
  (List.finRange 8).foldl (fun s t => if (s.timer t).expiryDue then s.expire t else s) s

/-- The lowest-numbered timer whose expiry is under way. -/
def State.nextExpiry (s : State) : Option (Fin 8) :=
  (List.finRange 8).find? (fun t => (s.timer t).expiryDue)

/-! ### Clock events -/

/-- R119: one timer at one clock event: a RUNNING timer of that clock counts down by 1. -/
def Timer.counted (c : Clock) (t : Timer) : Timer :=
  if t.state = .running ∧ t.clock = c then { t with count := t.count - 1 } else t

/-- R119: a clock event lowers the count of every RUNNING timer of its clock; those that reach 0 expire by
TIMER_EXPIRY, in ascending number, before any other event of the timer unit (log 9). -/
def State.clockEvent (s : State) (c : Clock) : State :=
  let s0 := s.settleTimers
  { s0 with timers := s0.timers.map (Timer.counted c) }

/-! ### Binding and release (R31, R123, R124) -/

/-- R31: the quest that has lost its timer to another quest's binding. -/
def State.dropBound (s : State) (binder : Option (Fin 32)) (q : Fin 32) : State :=
  match binder with
  | none => s
  | some q' => if q' = q then s else s.updQuest q' (fun c => { c with bound := none })

/-- R31, R123: quest `q` binds timer `t`; an unset timer refuses. -/
def State.bindTimer (s : State) (q : Fin 32) (t : Fin 8) : State :=
  let s0 := s.settleTimers
  if (s0.timer t).reload = 0 then s0
  else
    let s1 := s0.dropBound (s0.timer t).binder q
    let s2 :=
      s1.updTimer t (fun tm => { tm with binder := some q, count := tm.reload, state := .running })
    s2.updQuest q (fun c => { c with bound := some t })

/-- R31, R124: quest `q` releases the timer it holds, if it holds one. -/
def State.release (s : State) (q : Fin 32) : State :=
  match (s.quest q).bound with
  | none => s
  | some t =>
    let s0 := s.settleTimers
    (s0.updTimer t (fun tm => { tm with state := .stopped, binder := none })).updQuest q
      (fun c => { c with bound := none })

/-! ### Timer commands (R126 to R130) -/

/-- Word 2 of a timer command names the timer (12.7). -/
def timerOf (words : List Word) : Option (Fin 8) := timerNumber (bits (wordAt words 2) 0 8)

/-- R126: SET TIMER writes the setting; a STOPPED timer's count is loaded, a RUNNING timer keeps its count. -/
def Timer.withSetting (tm : Timer) (clock : Clock) (mode : TimerMode) (route : Bool) (reload : BitVec 16) :
    Timer :=
  let tm1 := { tm with clock := clock, mode := mode, route := route, reload := reload }
  match tm.state with
  | .stopped => { tm1 with count := reload }
  | .running => tm1

/-- SET TIMER (R126). -/
def State.setTimer (s : State) (words : List Word) : State :=
  match timerOf words with
  | none => s.report .outOfRange []
  | some t =>
    let reload := (wordAt words 3).toNat
    match clockOfCode (bits (wordAt words 2) 8 2), modeOfCode (bits (wordAt words 2) 12 2) with
    | some clock, some mode =>
      if 65535 < reload then s.report .badField []
      else if (s.timer t).binder.isSome then s.report .inUse []
      else
        (s.updTimer t (fun tm =>
          tm.withSetting clock mode (bit (wordAt words 2) 16) (BitVec.ofNat 16 reload))).report .ok []
    | _, _ => s.report .badField []

/-- R127: PRESET TIMER loads the count from the reload. -/
def State.presetTimer (s : State) (words : List Word) : State :=
  match timerOf words with
  | none => s.report .outOfRange []
  | some t =>
    if (s.timer t).binder.isSome then s.report .inUse []
    else if (s.timer t).reload = 0 then s.report .notDefined []
    else (s.updTimer t (fun tm => { tm with count := tm.reload })).report .ok []

/-- R128: a STOPPED timer runs, from its reload when its count is 0; a RUNNING timer is unchanged. -/
def Timer.started (tm : Timer) : Timer :=
  match tm.state with
  | .running => tm
  | .stopped => { tm with state := .running, count := if tm.count = 0 then tm.reload else tm.count }

/-- RUN TIMER (R128). -/
def State.runTimer (s : State) (words : List Word) : State :=
  match timerOf words with
  | none => s.report .outOfRange []
  | some t =>
    if (s.timer t).binder.isSome then s.report .inUse []
    else if (s.timer t).reload = 0 then s.report .notDefined []
    else (s.updTimer t Timer.started).report .ok []

/-- STOP TIMER (R129): STOPPED with its count kept. -/
def State.stopTimer (s : State) (words : List Word) : State :=
  match timerOf words with
  | none => s.report .outOfRange []
  | some t =>
    if (s.timer t).binder.isSome then s.report .inUse []
    else (s.updTimer t (fun tm => { tm with state := .stopped })).report .ok []

/-- The two result words of READ TIMER (12.7). -/
def State.timerWords (s : State) (t : Fin 8) : List Word :=
  let tm := s.timer t
  [ BitVec.ofNat 32 (fieldAt 0 16 tm.reload.toNat + fieldAt 16 16 tm.count.toNat),
    BitVec.ofNat 32
      (fieldAt 0 1 tm.state.code + fieldAt 1 1 tm.clock.code + fieldAt 2 1 tm.mode.code + flagAt 3 tm.route
        + flagAt 4 (t == 0 && s.beatOut) + fieldAt 8 8 (questCode tm.binder)) ]

/-- READ TIMER (R130). -/
def State.readTimer (s : State) (words : List Word) : State :=
  match timerOf words with
  | none => s.report .outOfRange []
  | some t => s.report .ok (s.timerWords t)

/-! ### Meanings -/

/-- BEAT (R117, R119): counted by no timer while GAME_RESET is asserted. -/
def execBeat (s : State) : Host.Outcome State Fault Refusal :=
  if s.gameReset then .next s else (s.clockEvent .beat).done

/-- TIMER_EXPIRY (R119, R120): the lowest-numbered expiry under way. -/
def execTimerExpiry (s : State) : Host.Outcome State Fault Refusal :=
  match s.nextExpiry with
  | some t => (s.expire t).done
  | none => .next s

/-- SET_TIMER (R126). -/
def execSetTimer (s : State) : Host.Outcome State Fault Refusal :=
  match s.handed 0x30 with
  | some words => (s.settleTimers.setTimer words).done
  | none => .next s

/-- PRESET_TIMER (R127). -/
def execPresetTimer (s : State) : Host.Outcome State Fault Refusal :=
  match s.handed 0x31 with
  | some words => (s.settleTimers.presetTimer words).done
  | none => .next s

/-- RUN_TIMER (R128). -/
def execRunTimer (s : State) : Host.Outcome State Fault Refusal :=
  match s.handed 0x32 with
  | some words => (s.settleTimers.runTimer words).done
  | none => .next s

/-- STOP_TIMER (R129). -/
def execStopTimer (s : State) : Host.Outcome State Fault Refusal :=
  match s.handed 0x33 with
  | some words => (s.settleTimers.stopTimer words).done
  | none => .next s

/-- READ_TIMER (R130). -/
def execReadTimer (s : State) : Host.Outcome State Fault Refusal :=
  match s.handed 0x34 with
  | some words => (s.settleTimers.readTimer words).done
  | none => .next s

end Sys2Proof.Machine
end

