-- ==== Sys2Proof/Machine/ControlPage.lean ====
section
/-! DEFINITION. The control-page unit (09): the enable copy, the turn copy, and the images of the two index words with
the decisions of their owners (R175, R190). -/

namespace Sys2Proof.Machine

open Sys2Proof

/-- The next write that the control-page unit has to take, when it is of the word at the given offset. -/
def State.nextPageWrite (s : State) (off : Nat) : Option SnoopWrite :=
  match s.nextFor .page with
  | some (.write e) => if e.addr = s.pageAddr off then some e else none
  | some (.syncMark _) => none
  | none => none

/-- R166: the enable copy takes the written lanes; a change of bits 0 to 14 is handed to the cause unit. -/
def State.takeEnable (s : State) (e : SnoopWrite) : State :=
  let copy := mergeLanes e.lanes s.page.enable e.data
  let handed : CauseSet :=
    if (copy.setWidth 15 : CauseSet) = s.page.enable.setWidth 15 then s.cause.handed else copy.setWidth 15
  { s with
    page := { s.page with enable := copy }
    cause := { s.cause with handed := handed } }

/-- R167, R118: the turn copy takes the written lanes; a change of the player field is one clock event of the TURN
timers. -/
def State.takeTurn (s : State) (e : SnoopWrite) : State :=
  let copy := mergeLanes e.lanes s.page.turn e.data
  let s1 := if bits copy 0 4 = bits s.page.turn 0 4 then s else s.clockEvent .turn
  { s1 with page := { s1.page with turn := copy } }

/-- R175: the command unit's decision on a produce value. -/
def State.decideProduce (s : State) (v : Word) : State :=
  if v.toNat < 32 then
    let s1 := { s with page := { s.page with produce := v.toNat } }
    match s1.cmd with
    | .idle => s1.compareIndexes
    | .fetching _ => s1
    | .dispatched _ _ => s1
    | .reporting _ _ _ => s1
    | .advancing => s1
  else s.raise causeRingFault

/-- R190: the notice writer's decision on a consume value. -/
def State.decideConsume (s : State) (v : Word) : State :=
  if s.notice.ringSet && decide (v.toNat < s.notice.size) then
    State.examineRing { s with page := { s.page with consume := v.toNat } }
  else s.raise causeRingFault

/-- R168: the image of the command produce index takes the written lanes, and its value is handed on, but for the
zero write of power-on reset. -/
def State.takeProduceIndex (s : State) (e : SnoopWrite) : State :=
  let image := mergeLanes e.lanes s.page.produceImage e.data
  let s1 := { s with page := { s.page with produceImage := image } }
  if e.atPowerOn then s1 else s1.decideProduce image

/-- R168: the image of the notice consume index takes the written lanes, and its value is handed on, but for the zero
write of power-on reset. -/
def State.takeConsumeIndex (s : State) (e : SnoopWrite) : State :=
  let image := mergeLanes e.lanes s.page.consumeImage e.data
  let s1 := { s with page := { s.page with consumeImage := image } }
  if e.atPowerOn then s1 else s1.decideConsume image

/-- ENABLE_WORD_TAKEN (R166). -/
def execEnableWordTaken (s : State) : Host.Outcome State Fault Refusal :=
  match s.nextPageWrite enableOff with
  | some e => ((s.takeFor .page).takeEnable e).done
  | none => .next s

/-- TURN_WORD_TAKEN (R118, R167). -/
def execTurnWordTaken (s : State) : Host.Outcome State Fault Refusal :=
  match s.nextPageWrite turnOff with
  | some e => ((s.takeFor .page).takeTurn e).done
  | none => .next s

/-- COMMAND_PRODUCE_INDEX (R168, R175). -/
def execCommandProduceIndex (s : State) : Host.Outcome State Fault Refusal :=
  match s.nextPageWrite produceOff with
  | some e => ((s.takeFor .page).takeProduceIndex e).done
  | none => .next s

/-- NOTICE_CONSUME_INDEX (R168, R190). -/
def execNoticeConsumeIndex (s : State) : Host.Outcome State Fault Refusal :=
  match s.nextPageWrite noticeConsumeOff with
  | some e => ((s.takeFor .page).takeConsumeIndex e).done
  | none => .next s

end Sys2Proof.Machine
end

