-- ==== Sys2Proof/Machine/Watches.lean ====
section
/-! DEFINITION. The watch unit (01_watches): taking the snoop stream, firing, synchronising reads, and the watch
commands other than DISARM WATCH. -/

namespace Sys2Proof.Machine

open Sys2Proof

/-! ### Firing (R9 to R12) -/

/-- How the offer of a firing of the given depth ends (R11). -/
def State.offerOutcome (s : State) (depth : Nat) : Offer :=
  if 8 ≤ depth then .depth else if s.watchRoom then .queued else .lost

/-- R11: the trigger joins the tail of the queue, or the cause is raised and the missed flag set. -/
def State.offerWatch (s : State) (w : Fin 64) (writer : Writer) (depth : Nat) : State :=
  match s.offerOutcome depth with
  | .queued => { s with queue := s.queue ++ [.watch w writer depth] }
  | .depth => (s.raise causeCascade).updWatch w (fun e => { e with missed := true })
  | .lost => (s.raise causeTriggerLost).updWatch w (fun e => { e with missed := true })

/-- R12, R186: the WATCH_FIRED notice of a firing. -/
def firedNotice (w : Fin 64) (writer : Writer) (depth : Nat) (o : Offer) (before after : Word) : Notice :=
  { kind := .watchFired, number := w.val, step := none, owner := none, tag := 0, statuses := [], ended := none,
    reason := none, timer := none, offer := some o, old := before, new := after,
    source := .watch w writer depth, turn := 0, parent := none, child := none, depth := 0 }

/-- R9: a firing offers its trigger (R11) and hands over its notice where the watch asks for it (R12). -/
def State.fireWatch (s : State) (w : Fin 64) (writer : Writer) (depth : Nat) (before after : Word) : State :=
  let s1 := s.offerWatch w writer depth
  if (s.watch w).notify then
    s1.handNotice (firedNotice w writer depth (s.offerOutcome depth) before after)
  else s1

/-! ### Taking a write (R5 to R10) -/

/-- R10: the depth of a firing on a write. -/
def firingDepth (e : SnoopWrite) : Nat :=
  match e.writer with
  | .effect => e.depth + 1
  | .proc => 0
  | .scan => 0
  | .part => 0

/-- The watch's observation after a write to its word that touches its field (R6, R7). -/
def Watch.observe (x : Watch) (e : SnoopWrite) : Watch :=
  let shadow := shadowAfter x.lowBit x.width e.lanes e.data x.shadow
  { x with shadow := shadow, truth := truthOf x.condition x.width shadow x.operand }

/-- R6: whether a write reaches the watch's field. -/
def Watch.sees (x : Watch) (e : SnoopWrite) : Bool :=
  x.state == .armed && x.addr == e.addr && touchesField e.lanes x.lowBit x.width

/-- R7: whether the write fires the watch. -/
def Watch.firesAt (x : Watch) (e : SnoopWrite) : Bool :=
  firesOn x.condition (x.filter.accepts e.writer) x.shadow (x.observe e).shadow x.truth (x.observe e).truth

/-- One watch at one write: the observation (R6), then the firing (R7). -/
def State.watchTakes (s : State) (e : SnoopWrite) (w : Fin 64) : State :=
  let x := s.watch w
  if x.sees e then
    let s1 := s.updWatch w (fun x => x.observe e)
    if x.firesAt e then s1.fireWatch w e.writer (firingDepth e) x.shadow (x.observe e).shadow else s1
  else s

/-- R5: a write is taken whole, in ascending watch number. -/
def State.takeWrite (s : State) (e : SnoopWrite) : State :=
  (List.finRange 64).foldl (fun s w => s.watchTakes e w) s

/-! ### Synchronising reads (R13 to R16) -/

/-- R16: the watch after its synchronising read. -/
def Watch.synced (x : Watch) (word : Word) : Watch :=
  let shadow := extractField word x.lowBit x.width
  { x with state := .armed, shadow := shadow, truth := truthOf x.condition x.width shadow x.operand }

/-- R16: the watch takes its read; with fire-on-arm set and the new truth TRUE it fires with writer PART and depth
0, both shadows being the value read (R9). -/
def State.syncWatch (s : State) (w : Fin 64) (word : Word) : State :=
  let s1 := s.updWatch w (fun x => x.synced word)
  let x := s1.watch w
  if x.fireOnArm && x.truth then s1.fireWatch w .part 0 x.shadow x.shadow else s1

/-- Whether the command unit waits for the synchronising read of watch `w` (R18, R20). -/
def State.armCommandWaits (s : State) (w : Fin 64) : Bool :=
  match s.cmd with
  | .dispatched words true =>
    (codeOf words == 0x10 || codeOf words == 0x11 || codeOf words == 0x13)
      && bits (wordAt words 2) 0 8 == w.val
  | .dispatched _ false => false
  | .idle => false
  | .fetching _ => false
  | .reporting _ _ _ => false
  | .advancing => false

/-- R16: the watch unit takes the completion of its synchronising read, and may issue the next one. A completion
whose watch has been freed, or that a warm reset has overtaken, is discarded. -/
def State.takeSync (s : State) (r : SyncRead) (word : Word) : State :=
  let s0 := { s with syncRead := none }
  if r.stale || (s.watch r.watch).state != .syncing then s0.issueSync
  else
    let s1 := s0.syncWatch r.watch word
    State.issueSync (if s1.armCommandWaits r.watch then s1.report .ok [] else s1)

/-- R13, R14: the grant of the synchronising read ends: the word read enters the stream as the read's completion. -/
def State.completeSync (s : State) (r : SyncRead) : State :=
  State.pushStream { s with syncRead := some { r with completed := true } }
    (.syncMark (readWord s.mem r.addr))

/-! ### The watch unit's warm reset (R26) -/

/-- R26: an ARMED or SYNCING watch enters SYNCING, its missed flag cleared; a FREE watch stays. -/
def Watch.warmReset (x : Watch) : Watch :=
  match x.state with
  | .free => x
  | .syncing => { x with state := .syncing, missed := false }
  | .armed => { x with state := .syncing, missed := false }

/-- R26: the watch unit takes the warm reset, and begins the re-reads. -/
def State.takeWatchReset (s : State) : State :=
  State.issueSync { s with watchReset := none, watches := s.watches.map Watch.warmReset }

/-- The watch unit has taken an item of its input; a warm reset that stood behind that item alone is taken (R114, R162,
R163; log 32). -/
def State.advanceWatchReset (s : State) : State :=
  match s.watchReset with
  | none => s
  | some n => if n ≤ 1 then s.takeWatchReset else { s with watchReset := some (n - 1) }

/-! ### ARM WATCH and ARM BIT WATCH (R17, R18, R19) -/

/-- R17: whether a word address may be watched. -/
def State.watchable (s : State) (a : Nat) : Bool :=
  a % 4 == 0 && decide (a < s.installed)
    && (!s.inPage a || a == s.pageAddr turnOff || s.isRevealWord a)

/-- The definition that an ARM command gives (R18): the operand truncated, shadow 0, truth FALSE, missed clear,
and the watch SYNCING. -/
def armedEntry (w2 : Word) (c : Condition) (addr low width : Nat) (operand : Word) : Watch :=
  { state := .syncing, addr := addr, lowBit := low, width := width, condition := c,
    operand := truncateTo width operand, filter := filterOfWord w2, notify := bit w2 20,
    fireOnArm := bit w2 21, shadow := 0, truth := false, missed := false }

/-- R17, R19: the BUSY check and R18's taking of a definition that has passed the field checks. -/
def State.armEntry (s : State) (w : Fin 64) (e : Watch) : State :=
  if (s.watch w).state = .free then ((s.updWatch w (fun _ => e)).takeCommand).issueSync
  else s.report .busy []

/-- ARM WATCH (R17, R18). -/
def State.armWatch (s : State) (words : List Word) : State :=
  let w2 := wordAt words 2
  let addr := (wordAt words 3).toNat
  let low := bits (wordAt words 4) 0 8
  let width := bits (wordAt words 4) 8 8
  match watchNumber (bits w2 0 8) with
  | none => s.report .outOfRange []
  | some w =>
    match conditionOfCode (bits w2 8 4) with
    | none => s.report .badField []
    | some c =>
      if width = 0 ∨ 32 < width ∨ 31 < low ∨ 32 < low + width ∨ (filterOfWord w2).isEmpty
          ∨ s.watchable addr = false then s.report .badField []
      else s.armEntry w (armedEntry w2 c addr low width (wordAt words 5))

/-- R19: the conditions that the bit-string form admits. -/
def Condition.forBit : Condition → Bool
  | .equal => true
  | .unequal => true
  | .changed => true
  | .below => false
  | .atLeast => false
  | .above => false
  | .atMost => false
  | .less => false
  | .notLess => false
  | .greater => false
  | .notGreater => false

/-- ARM BIT WATCH (R19). -/
def State.armBitWatch (s : State) (words : List Word) : State :=
  let w2 := wordAt words 2
  let base := (wordAt words 3).toNat
  let index := bits (wordAt words 4) 0 16
  match watchNumber (bits w2 0 8) with
  | none => s.report .outOfRange []
  | some w =>
    match conditionOfCode (bits w2 8 4) with
    | none => s.report .badField []
    | some c =>
      if base % 4 ≠ 0 ∨ 4095 < index ∨ c.forBit = false ∨ 1 < (wordAt words 5).toNat
          ∨ (filterOfWord w2).isEmpty ∨ s.watchable (bitStringAddr base index) = false then
        s.report .badField []
      else
        s.armEntry w
          (armedEntry w2 c (bitStringAddr base index) (bitStringLow index) 1 (wordAt words 5))

/-! ### RESYNC WATCH and READ WATCH (R20, R23) -/

/-- RESYNC WATCH (R20). -/
def State.resyncWatch (s : State) (words : List Word) : State :=
  match watchNumber (bits (wordAt words 2) 0 8) with
  | none => s.report .outOfRange []
  | some w =>
    match (s.watch w).state with
    | .free => s.report .notDefined []
    | .syncing => s.report .busy []
    | .armed => ((s.updWatch w (fun x => { x with state := .syncing })).takeCommand).issueSync

/-- The five result words of READ WATCH (12.4). -/
def Watch.words (x : Watch) : List Word :=
  [ BitVec.ofNat 32
      (fieldAt 0 2 x.state.code + fieldAt 8 4 x.condition.code + fieldAt 16 3 x.filter.code
        + flagAt 20 x.notify + flagAt 21 x.fireOnArm + flagAt 24 x.truth + flagAt 25 x.missed),
    BitVec.ofNat 32 x.addr,
    BitVec.ofNat 32 (fieldAt 0 8 x.lowBit + fieldAt 8 8 x.width),
    x.operand,
    x.shadow ]

/-- READ WATCH (R23): the copy shows the missed flag as it was, and the flag is cleared. -/
def State.readWatch (s : State) (words : List Word) : State :=
  match watchNumber (bits (wordAt words 2) 0 8) with
  | none => s.report .outOfRange []
  | some w => (s.updWatch w (fun x => { x with missed := false })).report .ok (s.watch w).words

/-! ### Meanings -/

/-- WATCH_TAKE_WRITE (R5): the watch unit takes the next write of the stream. -/
def execWatchTakeWrite (s : State) : Host.Outcome State Fault Refusal :=
  match s.nextFor .watch with
  | some (.write e) => ((s.takeFor .watch).takeWrite e).advanceWatchReset.done
  | some (.syncMark _) => .next s
  | none => .next s

/-- SYNC_READ_COMPLETE (R14, R16): the grant of the synchronising read ends, putting its completion into the
stream; or, when that completion is the watch unit's next item, the watch unit takes it (log 8). -/
def execSyncReadComplete (s : State) : Host.Outcome State Fault Refusal :=
  match s.syncRead with
  | none => .next s
  | some r =>
    if s.mpa.port = some (.ir .syncRead) then ((s.completeSync r).endIRGrant).done
    else
      match s.nextFor .watch with
      | some (.syncMark word) => ((s.takeFor .watch).takeSync r word).advanceWatchReset.done
      | some (.write _) => .next s
      | none => .next s

/-- ARM_WATCH (R17, R18). -/
def execArmWatch (s : State) : Host.Outcome State Fault Refusal :=
  match s.handed 0x10 with
  | some words => (s.armWatch words).done
  | none => .next s

/-- ARM_BIT_WATCH (R19). -/
def execArmBitWatch (s : State) : Host.Outcome State Fault Refusal :=
  match s.handed 0x11 with
  | some words => (s.armBitWatch words).done
  | none => .next s

/-- RESYNC_WATCH (R20). -/
def execResyncWatch (s : State) : Host.Outcome State Fault Refusal :=
  match s.handed 0x13 with
  | some words => (s.resyncWatch words).done
  | none => .next s

/-- READ_WATCH (R23). -/
def execReadWatch (s : State) : Host.Outcome State Fault Refusal :=
  match s.handed 0x14 with
  | some words => (s.readWatch words).done
  | none => .next s

end Sys2Proof.Machine
end

