-- ==== Sys2Proof/Machine/Engine.lean ====
section
/-! DEFINITION. The quest engine and the effect unit (02 to 05): the parts of a work item, run from one effect's grant
to the next; taking triggers; an effect's grant and its report. -/

namespace Sys2Proof.Machine

open Sys2Proof

/-! ### The effect unit: taking a request (R97) -/

/-- The truth of a watch reference (R24: a FREE watch offers FALSE). -/
def State.refTruth (s : State) (ref : Option (Fin 64)) : Bool :=
  match ref with
  | some w => (s.watch w).truth
  | none => false

/-- R97: what the effect unit does with a request: it waits for a grant with the job, or ends SKIPPED (none). -/
def State.effectJob (s : State) (r : EffectRec) (depth : Nat) : Option EffectJob :=
  match r.kind with
  | .writeIf => if s.refTruth r.ref then some { record := r, depth := depth, captured := 0 } else none
  | .copyShadow =>
    match r.ref with
    | some w =>
      if (s.watch w).state = .free then none
      else some { record := r, depth := depth, captured := (s.watch w).shadow }
    | none => none
  | .setBit | .clearBit | .flipBit | .writeField | .addField =>
    some { record := r, depth := depth, captured := 0 }

/-- The outcome of a SKIPPED effect (R106). -/
def EffectResult.skip : EffectResult := { status := .skipped, old := 0, new := 0 }

/-- The outcome of a DENIED effect (R99, R106). -/
def EffectResult.deny : EffectResult := { status := .denied, old := 0, new := 0 }

/-! ### Validation (R46) -/

/-- Whether a watch field names a FREE watch. -/
def State.namesFree (s : State) (ref : Option (Fin 64)) : Bool :=
  match ref with
  | some w => (s.watch w).state == .free
  | none => false

/-- Whether a timer field names an unset timer. -/
def State.namesUnset (s : State) (t : Option (Fin 8)) : Bool :=
  match t with
  | some t => (s.timer t).reload == 0
  | none => false

/-- The effect records of a step, in record order (R34). -/
def State.stepEffects (s : State) (st : StepRec) : List EffectRec :=
  (List.range st.effectCount).map (fun i => s.effectRec (st.firstEffect + i))

/-- R46 check 4: the validation of one step of quest `q`; the first failure gives the status. -/
def State.validateStep (s : State) (q : Fin 32) (st : StepRec) : Option Status :=
  if s.namesFree st.trigger then some .notDefined
  else if s.namesFree st.guard then some .notDefined
  else if s.namesUnset st.timer then some .notDefined
  else if st.call = some q then some .badField
  else if (s.stepEffects st).any (fun r => r.kind.usesWatch && s.namesFree r.ref) then some .notDefined
  else none

/-- The records of a quest's steps, from step 0 (R30). -/
def State.questSteps (s : State) (q : Fin 32) : List StepRec :=
  (List.range (s.quest q).stepCount).map (fun i => s.questStep q i)

/-- R46 check 4: the validation of a quest's steps, from step 0 upwards. -/
def State.validateQuest (s : State) (q : Fin 32) : Option Status :=
  (s.questSteps q).findSome? (fun st => s.validateStep q st)

/-! ### Notices of the engine (R186) -/

/-- A notice about quest `q` as it stands, from the work item's source; the fields a kind does not name are none or 0. -/
def State.questNotice (s : State) (w : WorkItem) (q : Fin 32) (kind : NoticeKind) : Notice :=
  let c := s.quest q
  { kind := kind, number := q.val, step := some c.current, owner := some c.owner, tag := c.tag, statuses := [],
    ended := none, reason := none, timer := none, offer := none, old := 0, new := 0, source := w.source,
    turn := 0, parent := c.parent, child := c.child, depth := c.depth }

/-- The old and new values of a step's first effect, 0 and 0 without one (R34, R186). -/
def firstValues (outs : List EffectResult) : Word × Word :=
  match outs with
  | [] => (0, 0)
  | o :: _ => (o.old, o.new)

/-! ### The parts of a work item -/

/-- The work item goes on with another part. -/
def State.withTask (s : State) (w : WorkItem) (t : Task) : State := { s with work := some { w with task := t } }

/-- R64: the work item ends; for a command, the status OK is reported. -/
def State.endWork (s : State) (w : WorkItem) : State :=
  match w.source with
  | .command _ => State.report { s with work := none } .ok []
  | .watch _ _ _ => { s with work := none }
  | .expiry _ => { s with work := none }

/-- R31, R32: quest `q` makes step `i` current and binds its timer; a step whose trigger is NONE passes at once. -/
def State.enterStep (s : State) (w : WorkItem) (q : Fin 32) (i : Nat) : State :=
  let s1 := s.updQuest q (fun c => { c with current := i })
  let st := s1.currentStep q
  let s2 :=
    match st.timer with
    | none => s1
    | some t => s1.bindTimer q t
  s2.withTask w (if st.trigger = none then .pass q else .nextVisit)

/-- R47, R82 part 4: quest `q` is started at the given depth and enters step 0. -/
def State.beginQuest (s : State) (w : WorkItem) (q : Fin 32) (depth : Nat) : State :=
  State.enterStep
    (s.updQuest q (fun c =>
      { c with reason := none, late := false, depth := depth, current := 0, state := .active }))
    w q 0

/-- R31, R33 part 1. -/
def State.passStep (s : State) (w : WorkItem) (q : Fin 32) : State := (s.release q).withTask w (.effects q 0 [])

/-- R34, R97: effect `i` of the current step is requested; when there is none, the pass goes on. -/
def State.requestEffect (s : State) (w : WorkItem) (q : Fin 32) (i : Nat) (outs : List EffectResult) : State :=
  let st := s.currentStep q
  if i < st.effectCount then
    match s.effectJob (s.effectRec (st.firstEffect + i)) w.depth with
    | none => s.withTask w (.effects q (i + 1) (outs ++ [EffectResult.skip]))
    | some job => State.withTask { s with effectUnit := .grantWait job } w (.awaiting q i outs)
  else s.withTask w (.passed q outs)

/-- R81: how a call of `c` by `p` ends: refused with a reason, or accepted (none). -/
def State.callRefused (s : State) (p c : Fin 32) : Option FailReason :=
  if 3 ≤ (s.quest p).depth then some .depth
  else if (s.quest c).state = .vacant then some .callBusy
  else if (s.quest c).state.running then some .callBusy
  else if (s.validateQuest c).isSome then some .callBusy
  else none

/-- R81 to R83: the call at part 4 of a pass. -/
def State.makeCall (s : State) (w : WorkItem) (p c : Fin 32) : State :=
  match s.callRefused p c with
  | some reason => s.withTask w (.fail p reason none none)
  | none =>
    State.beginQuest
      ((s.updQuest p (fun x => { x with child := some c, state := .suspended })).updQuest c
        (fun x => { x with parent := some p }))
      w c ((s.quest p).depth + 1)

/-- R33 parts 3 to 5: the notice, then the call or the advance. -/
def State.finishPass (s : State) (w : WorkItem) (q : Fin 32) (outs : List EffectResult) : State :=
  let st := s.currentStep q
  let s1 :=
    if st.notify then
      s.handNotice
        { s.questNotice w q .stepPassed with
          statuses := outs.map EffectResult.status, ended := some .passed, old := (firstValues outs).1,
          new := (firstValues outs).2 }
    else s
  match st.call with
  | none => s1.withTask w (.advance q .passed)
  | some c => s1.makeCall w q c

/-- R35, R85, R86: quest `q` leaves its current step, which ended as `how` says. -/
def State.advanceQuest (s : State) (w : WorkItem) (q : Fin 32) (how : Ended) : State :=
  let c := s.quest q
  if c.current + 1 < c.stepCount then s.enterStep w q (c.current + 1)
  else
    let s1 := s.updQuest q (fun c => { c with state := .done, late := false })
    let s2 := s1.handNotice { s1.questNotice w q .questDone with ended := some how }
    match c.parent with
    | none => s2.withTask w .nextVisit
    | some p =>
      State.withTask
        ((s2.updQuest q (fun c => { c with parent := none })).updQuest p
          (fun c => { c with child := none, state := .active }))
        w (.advance p .passed)

/-- R36 to R39: the timeout action of the current step. The notices name the step's timer (log 18). -/
def State.timeoutQuest (s : State) (w : WorkItem) (q : Fin 32) : State :=
  let st := s.currentStep q
  let s1 := s.release q
  match st.action with
  | .fail => s1.withTask w (.fail q .timeout st.timer none)
  | .skip =>
    let s2 :=
      if st.notify then
        s1.handNotice { s1.questNotice w q .stepSkipped with timer := st.timer, ended := some .skipped }
      else s1
    s2.withTask w (.advance q .skipped)
  | .note =>
    State.withTask
      (s1.handNotice { s1.questNotice w q .stepLate with timer := st.timer, ended := some .late }) w .nextVisit

/-- R87, R89: the reason with which the parent of `q` fails, and how far an ABANDON QUEST has come. -/
def parentFailure (q : Fin 32) (upTo : Option (Fin 32)) : FailReason × Option (Fin 32) :=
  match upTo with
  | none => (.childFailed, none)
  | some n => if n = q then (.childFailed, none) else (.abandoned, some n)

/-- R40, R87, R89: quest `q` fails, its notice carrying its links as they stand; then the link to its parent is
cleared on both sides and the parent fails. -/
def State.failQuest (s : State) (w : WorkItem) (q : Fin 32) (reason : FailReason) (timer : Option (Fin 8))
    (upTo : Option (Fin 32)) : State :=
  let s1 := (s.release q).updQuest q (fun c => { c with reason := some reason, state := .failed })
  let s2 := s1.handNotice { s1.questNotice w q .questFailed with reason := some reason, timer := timer }
  let s3 := s2.updQuest q (fun c => { c with late := false })
  match (s1.quest q).parent with
  | none => s3.withTask w .nextVisit
  | some p =>
    State.withTask
      ((s3.updQuest q (fun c => { c with parent := none })).updQuest p (fun c => { c with child := none }))
      w (.fail p (parentFailure q upTo).1 none (parentFailure q upTo).2)

/-! ### The visit of a WATCH trigger (R67 to R70) -/

/-- R68: whether the trigger counts for a quest. -/
def State.countsFor (s : State) (player : Nat) (q : Fin 32) : Bool :=
  match (s.currentStep q).gated, (s.quest q).owner with
  | true, .player p => player == p.val
  | true, .any => true
  | false, .player _ => true
  | false, .any => true

/-- R70: whether a step after the current one names `v` as its trigger. -/
def State.laterNames (s : State) (q : Fin 32) (v : Fin 64) : Bool :=
  (List.range (s.quest q).stepCount).any
    (fun i => decide ((s.quest q).current < i) && (s.questStep q i).trigger == some v)

/-- R68 to R70: what a WATCH trigger of `v` does to quest `q`: its step passes, it fails out of order, or it ignores
the trigger. Only an ACTIVE quest is touched (log 22). -/
def State.visitTask (s : State) (w : WorkItem) (q : Fin 32) (v : Fin 64) : Task :=
  let st := s.currentStep q
  if (s.quest q).state ≠ .active then .nextVisit
  else if s.countsFor w.player q = false then .nextVisit
  else if st.trigger = some v then
    match st.guard with
    | none => .pass q
    | some g => if (s.watch g).truth then .pass q else .nextVisit
  else if (s.quest q).order = .strict ∧ s.laterNames q v = true then .fail q .outOfOrder none none
  else .nextVisit

/-- R67: the engine reaches the next recorded quest, or the work item ends. -/
def State.nextVisit (s : State) (w : WorkItem) : State :=
  match w.visits with
  | [] => s.endWork w
  | q :: rest =>
    match w.source with
    | .watch v _ _ => s.withTask { w with visits := rest } (s.visitTask w q v)
    | .expiry _ => s.withTask { w with visits := rest } .nextVisit
    | .command _ => s.withTask { w with visits := rest } .nextVisit

/-! ### Running the engine -/

/-- One part of the work item. -/
def State.engineStep (s : State) (w : WorkItem) : State :=
  match w.task with
  | .nextVisit => s.nextVisit w
  | .pass q => s.passStep w q
  | .effects q i outs => s.requestEffect w q i outs
  | .awaiting _ _ _ => s
  | .passed q outs => s.finishPass w q outs
  | .advance q how => s.advanceQuest w q how
  | .timeout q => s.timeoutQuest w q
  | .fail q reason timer upTo => s.failQuest w q reason timer upTo

/-- Whether the engine waits for an effect's outcome (R96). -/
def Task.waits : Task → Bool
  | .awaiting _ _ _ => true
  | .nextVisit => false
  | .pass _ => false
  | .effects _ _ _ => false
  | .passed _ _ => false
  | .advance _ _ => false
  | .timeout _ => false
  | .fail _ _ _ _ => false

/-- Whether the engine has a part of a work item to do. -/
def State.engineReady (s : State) : Bool :=
  match s.work with
  | none => false
  | some w => !w.task.waits

/-- At most `n` parts of the work item, until it ends or waits for an effect. -/
def runParts : Nat → State → State
  | 0, s => s
  | n + 1, s =>
    match s.work with
    | none => s
    | some w => if w.task.waits then s else runParts n (s.engineStep w)

/-- The engine goes on with its work item until it ends or waits for an effect (R64, R96; log 21). -/
def State.runEngine (s : State) : State := runParts Config.engineParts s

/-- The effect unit reports an outcome to the engine, which goes on with the next effect of the step (R34, R106). -/
def State.effectReported (s : State) (r : EffectResult) : State :=
  match s.work with
  | none => s
  | some w =>
    match w.task with
    | .awaiting q i outs => State.runEngine (s.withTask w (.effects q (i + 1) (outs ++ [r])))
    | .nextVisit => s
    | .pass _ => s
    | .effects _ _ _ => s
    | .passed _ _ => s
    | .advance _ _ => s
    | .timeout _ => s
    | .fail _ _ _ _ => s

/-- The engine begins a work item (R63) with the given first part. -/
def State.beginWork (s : State) (source : Source) (depth player : Nat) (visits : List (Fin 32)) (task : Task) :
    State :=
  State.runEngine
    { s with work := some { source := source, depth := depth, player := player, visits := visits, task := task } }

/-! ### Taking triggers (R61, R65, R67, R72) -/

/-- R63: the codes of the commands that the engine takes. -/
def engineCode (code : Nat) : Bool := code == 0x12 || (decide (0x20 ≤ code) && decide (code ≤ 0x28))

/-- R65: whether a command waits for the engine. -/
def State.engineCommandWaits (s : State) : Bool :=
  match s.cmd with
  | .dispatched words false => engineCode (codeOf words)
  | .dispatched _ true => false
  | .idle => false
  | .fetching _ => false
  | .reporting _ _ _ => false
  | .advancing => false

/-- The player field of the turn copy (R167). -/
def State.turnPlayer (s : State) : Nat := bits s.page.turn 0 4

/-- R67: the quests that are ACTIVE, in ascending number. -/
def State.activeQuests (s : State) : List (Fin 32) :=
  (List.finRange 32).filter (fun q => (s.quest q).state == .active)

/-- R67: the engine takes a WATCH entry, recording the ACTIVE quests and the player. -/
def State.takeWatchEntry (s : State) (v : Fin 64) (writer : Writer) (depth : Nat) : State :=
  s.beginWork (.watch v writer depth) depth s.turnPlayer s.activeQuests .nextVisit

/-- R72: whether the expiry reaches the quest: its bound timer is `t`. -/
def State.holdsTimer (s : State) (q : Fin 32) (t : Fin 8) : Bool := (s.quest q).bound == some t

/-- R72, R41: the engine takes an EXPIRY entry and delivers it by the binding as it stands. -/
def State.takeExpiryEntry (s : State) (t : Fin 8) (binder : Option (Fin 32)) : State :=
  match binder with
  | none => s
  | some q =>
    if s.holdsTimer q t then
      match (s.quest q).state with
      | .active => s.beginWork (.expiry t) 0 s.turnPlayer [] (.timeout q)
      | .held => s.updQuest q (fun c => { c with late := true })
      | .vacant => s
      | .loaded => s
      | .suspended => s
      | .done => s
      | .failed => s
    else s

/-! ### Meanings -/

/-- WATCH_TRIGGER_TAKE (R61, R65, R67): an idle engine, with no command waiting, takes a WATCH entry at the head.
An engine with a part of its work item still to do goes on with it (log 21). -/
def execWatchTriggerTake (s : State) : Host.Outcome State Fault Refusal :=
  if s.engineReady then s.runEngine.done
  else if s.work.isSome || s.engineCommandWaits then .next s
  else
    match s.queue with
    | .watch v writer depth :: rest => (State.takeWatchEntry { s with queue := rest } v writer depth).done
    | .expiry _ _ :: _ => .next s
    | [] => .next s

/-- EXPIRY_TRIGGER_TAKE (R61, R65, R72). -/
def execExpiryTriggerTake (s : State) : Host.Outcome State Fault Refusal :=
  if s.engineReady then s.runEngine.done
  else if s.work.isSome || s.engineCommandWaits then .next s
  else
    match s.queue with
    | .expiry t binder :: rest => (State.takeExpiryEntry { s with queue := rest } t binder).done
    | .watch _ _ _ :: _ => .next s
    | [] => .next s

/-- R98, R100: a permitted effect: the transfer, and SETTLING with the old and new values. -/
def State.grantEffect (s : State) (j : EffectJob) : State :=
  let word := readWord s.mem j.record.addr
  { s.effectTransfer j with effectUnit := .settling (j.oldValue word) (j.newValue word) }

/-- R99: a denied effect: the fault, ACCESS, and the outcome DENIED. -/
def State.denyEffect (s : State) (j : EffectJob) : State :=
  State.effectReported { s.recordFault .effect .write j.record.addr with effectUnit := .idle } EffectResult.deny

/-- EFFECT_GRANT (R98, R99, R100). -/
def execEffectGrant (s : State) : Host.Outcome State Fault Refusal :=
  match s.mpa.port, s.effectUnit with
  | some (.ir .effectRmw), .grantWait j =>
    if s.permitsEffect j.record.addr then (s.endIRGrant.grantEffect j).done
    else (s.endIRGrant.denyEffect j).done
  | some (.orphan .effectRmw op), _ => (s.endOrphan op).done
  | _, _ => .next s

/-- R105: whether the effect's write stands in the stream for some block. -/
def State.effectStanding (s : State) : Bool :=
  s.stream.any (fun it =>
    match it.body with
    | .write e => e.writer == .effect
    | .syncMark _ => false)

/-- EFFECT_SETTLED (R105, R106): once the three blocks have taken the effect's write, DONE is reported and the engine
goes on. An expiry that the write has caused has been offered by then (R108; log 9). -/
def execEffectSettled (s : State) : Host.Outcome State Fault Refusal :=
  match s.effectUnit with
  | .settling old new =>
    if s.effectStanding then .next s
    else
      (State.effectReported { s.settleTimers with effectUnit := .idle }
        { status := .done, old := old, new := new }).done
  | .idle => .next s
  | .grantWait _ => .next s

end Sys2Proof.Machine
end

