-- ==== Sys2Proof/Machine/MemoryPath.lean ====
section
/-! DEFINITION. Master accesses (08), the fog unit (07) and the interception of processor writes (R164, R165, R170). -/

namespace Sys2Proof.Machine

open Sys2Proof

/-! ### Fog (R135, R137, R138, R140) -/

/-- R135: the tile index of an address in a fogged region. -/
def Region.tileOf (r : Region) (a : Nat) : Nat := r.firstTile + (a - r.base) / r.stride.bytes

/-- R140: bit `n` of the reveal copy. -/
def State.tileRevealed (s : State) (n : Nat) : Bool := (s.reveal[Fin.ofNat 4 (n / 32)]).getLsbD (n % 32)

/-- R137: the data of a permitted scanner read of a word: memory, or the fog word of an unrevealed tile. -/
def State.scannerWord (s : State) (a : Nat) : Word :=
  match s.governing a with
  | none => readWord s.mem a
  | some r =>
    if r.fog && !s.tileRevealed (r.tileOf a) then r.fogWord else readWord s.mem a

/-- R139: the data of a permitted read by either master. -/
def State.masterWord (s : State) (m : Master) (a : Nat) : Word :=
  match m with
  | .proc => readWord s.mem a
  | .scan => s.scannerWord a

/-! ### Interception (R164) -/

/-- What the control-page unit does with a permitted processor write. -/
inductive Interception
  | passes
  | clears
  | dropped
  deriving DecidableEq, Repr

/-- R164, R165, R170: the interception of a permitted write by a master to a word. -/
def State.interception (s : State) (m : Master) (a : Nat) : Interception :=
  match m with
  | .scan => .passes
  | .proc =>
    if a = s.pageAddr causeOff then .clears
    else if a = s.pageAddr vectorOff ∨ a = s.pageAddr consumeOff ∨ a = s.pageAddr noticeProduceOff
        ∨ a = s.pageAddr faultOff then .dropped
    else .passes

/-! ### Accesses -/

/-- The master whose grant is in progress, with its access (R147). -/
def State.grantedAccess (s : State) : Option (Master × Access) :=
  match s.mpa.port with
  | some (.master m) => (s.port m).access.map (fun a => (m, a))
  | some (.ir _) => none
  | some (.orphan _ _) => none
  | none => none

/-- R141: whether the fog unit has taken everything that completed before the read in progress. -/
def State.fogCurrent (s : State) : Bool := (s.nextFor .fog).isNone

/-- R155: a refused access is answered, a read with zero, and its fault is recorded. -/
def State.refuseAccess (s : State) (m : Master) (a : Access) : State :=
  (s.recordFault (masterWriter m) a.dir (wordAddrOf a)).endMasterGrant m
    (match a.dir with
    | .read => 0
    | .write => (s.port m).data)

/-- The data of a permitted read, in the selected lanes (R146, R150). -/
def State.readData (s : State) (m : Master) (a : Access) : Word :=
  onLanes (lanesOf a) (s.masterWord m (wordAddrOf a))

/-- R150: a permitted write that is not intercepted: memory is written in the selected lanes and the write enters
the snoop stream. -/
def State.masterStore (s : State) (m : Master) (a : Access) : State :=
  let s1 :=
    State.pushStream { s with mem := writeLanes s.mem (wordAddrOf a) (lanesOf a) a.data }
      (.write
        { addr := wordAddrOf a, lanes := lanesOf a, data := onLanes (lanesOf a) a.data,
          writer := masterWriter m, depth := 0, atPowerOn := false })
  s1.endMasterGrant m (s.port m).data

/-- R170: the set that a write to the cause word clears: bits 0 to 14 of the data, in the written lanes. -/
def clearSet (a : Access) : CauseSet := (onLanes (lanesOf a) a.data).setWidth 15

/-- R170: the clear: the causes leave the working set and the arrivals, and the cause word is written in all four lanes
with the working set, entering the stream with writer PROC. -/
def State.clearCauses (s : State) (a : Access) : State :=
  let working := s.cause.working &&& ~~~(clearSet a)
  let word : Word := working.setWidth 32
  let s1 :=
    { s with
      cause := { s.cause with working := working, arrivals := s.cause.arrivals &&& ~~~(clearSet a) }
      mem := writeWord s.mem (s.pageAddr causeOff) word }
  let s2 :=
    s1.pushStream
      (.write
        { addr := s.pageAddr causeOff, lanes := Lanes.all, data := word, writer := .proc, depth := 0,
          atPowerOn := false })
  s2.endMasterGrant .proc s.procPort.data

/-! ### Meanings -/

/-- MASTER_REQUEST (R146, R147): an access is presented; a master with an access outstanding presents none (log 24).
The grant is made at once where the port is free (`State.react`). -/
def execMasterRequest (m : Master) (a : Access) (s : State) : Host.Outcome State Fault Refusal :=
  if (s.port m).access.isSome then .next s else (s.setPort m { s.port m with access := some a }).done

/-- MASTER_READ (R137, R150, R155). A scanner read is decided when the fog unit has taken every write before it
(R141). -/
def execMasterRead (s : State) : Host.Outcome State Fault Refusal :=
  match s.grantedAccess with
  | none => .next s
  | some (m, a) =>
    match a.dir with
    | .write => .next s
    | .read =>
      if s.permits m a = false then (s.refuseAccess m a).done
      else if m = .scan ∧ s.fogCurrent = false then .next s
      else (s.endMasterGrant m (s.readData m a)).done

/-- MASTER_WRITE (R150, R155): a write that is refused, or permitted and not intercepted. -/
def execMasterWrite (s : State) : Host.Outcome State Fault Refusal :=
  match s.grantedAccess with
  | none => .next s
  | some (m, a) =>
    match a.dir with
    | .read => .next s
    | .write =>
      if s.permits m a = false then (s.refuseAccess m a).done
      else
        match s.interception m (wordAddrOf a) with
        | .passes => (s.masterStore m a).done
        | .clears => .next s
        | .dropped => .next s

/-- CAUSE_WORD_CLEAR (R170). -/
def execCauseWordClear (s : State) : Host.Outcome State Fault Refusal :=
  match s.grantedAccess with
  | none => .next s
  | some (m, a) =>
    match a.dir with
    | .read => .next s
    | .write =>
      if s.permits m a && s.interception m (wordAddrOf a) == .clears then (s.clearCauses a).done else .next s

/-- DROPPED_CONTROL_WRITE (R165): the port sees the write complete, and nothing else changes. -/
def execDroppedControlWrite (s : State) : Host.Outcome State Fault Refusal :=
  match s.grantedAccess with
  | none => .next s
  | some (m, a) =>
    match a.dir with
    | .read => .next s
    | .write =>
      if s.permits m a && s.interception m (wordAddrOf a) == .dropped then
        (s.endMasterGrant m (s.port m).data).done
      else .next s

/-! ### Taking the stream: the fog unit (R140) -/

/-- R140: a reveal word of the copy takes the written lanes. -/
def State.takeReveal (s : State) (e : SnoopWrite) : State :=
  let i := s.revealIndex e.addr
  { s with reveal := s.reveal.set i.val (mergeLanes e.lanes s.reveal[i] e.data) i.isLt }

/-- REVEAL_COPY_UPDATE (R140): the fog unit takes its next write of a reveal word. -/
def execRevealCopyUpdate (s : State) : Host.Outcome State Fault Refusal :=
  match s.nextFor .fog with
  | some (.write e) => ((s.takeFor .fog).takeReveal e).done
  | some (.syncMark _) => .next s
  | none => .next s

end Sys2Proof.Machine
end

