-- ==== Sys2Proof/Machine/Quests.lean ====
section
/-! DEFINITION. The commands that the quest engine takes as work items (R63): DISARM WATCH, DEFINE STEPS, DEFINE
EFFECTS and the quest commands. -/

namespace Sys2Proof.Machine

open Sys2Proof

/-- Word 2 of a quest command names the quest (12.6). -/
def questOf (words : List Word) : Option (Fin 32) := questNumber (bits (wordAt words 2) 0 8)

/-- A command that the engine can take now: handed over, with the engine idle (R65). -/
def State.engineHanded (s : State) (code : Nat) : Option (List Word) :=
  if s.work.isSome then none else s.handed code

/-! ### What running quests use (R21, R43, R112) -/

/-- The steps of every running quest (R28, R30). -/
def State.runningSteps (s : State) : List StepRec :=
  ((List.finRange 32).filter (fun q => (s.quest q).state.running)).flatMap (fun q => s.questSteps q)

/-- R43: whether step record `n` lies in the step range of a running quest. -/
def State.stepInUse (s : State) (n : Nat) : Bool :=
  (List.finRange 32).any (fun q =>
    (s.quest q).state.running && decide ((s.quest q).firstStep ≤ n)
      && decide (n < (s.quest q).firstStep + (s.quest q).stepCount))

/-- R112: whether effect record `n` lies in the effect range of a step of a running quest. -/
def State.effectInUse (s : State) (n : Nat) : Bool :=
  s.runningSteps.any (fun st => decide (st.firstEffect ≤ n) && decide (n < st.firstEffect + st.effectCount))

/-- R21: whether a running quest names the watch as trigger, guard or watch reference. -/
def State.watchInUse (s : State) (w : Fin 64) : Bool :=
  s.runningSteps.any (fun st =>
    st.trigger == some w || st.guard == some w
      || (s.stepEffects st).any (fun r => r.kind.usesWatch && r.ref == some w))

/-! ### DISARM WATCH (R21, R22, R62) -/

/-- R22: the outstanding read of a watch that is freed is discarded at its completion. -/
def State.dropSync (s : State) (w : Fin 64) : State :=
  match s.syncRead with
  | none => s
  | some r => if r.watch = w then s.staleSync else s

/-- R22, R62: the watch is freed, then its WATCH entries are purged from the queue. -/
def State.freeWatch (s : State) (w : Fin 64) : State :=
  let s1 := (s.updWatch w (fun _ => Watch.cleared)).dropSync w
  { s1 with queue := s1.queue.filter (fun e => !e.isWatchOf w) }

/-- DISARM WATCH (R21, R22). -/
def State.disarmWatch (s : State) (words : List Word) : State :=
  match watchNumber (bits (wordAt words 2) 0 8) with
  | none => s.report .outOfRange []
  | some w =>
    if (s.watch w).state = .free then s.report .notDefined []
    else if s.watchInUse w then s.report .inUse []
    else (s.freeWatch w).report .ok []

/-! ### DEFINE STEPS (R42, R43) -/

/-- The first record index of a DEFINE command (12.5). -/
def firstIndexOf (words : List Word) : Nat := bits (wordAt words 2) 0 8

/-- The count of records of a DEFINE command (12.5). -/
def recordCountOf (words : List Word) : Nat := bits (wordAt words 2) 16 8

/-- Word A, B or C (`k` 0, 1, 2) of record `i` of a DEFINE command (12.5). -/
def recordWord (words : List Word) (i k : Nat) : Word := wordAt words (3 + 3 * i + k)

/-- R42 check 2: one step record, field by field; the first failure gives the status. -/
def parseStep (a b c : Word) : Except Status StepRec :=
  match watchRefOf (bits a 0 8) with
  | none => .error .outOfRange
  | some trigger =>
    match watchRefOf (bits a 8 8) with
    | none => .error .outOfRange
    | some guard =>
      if guard.isSome && trigger.isNone then .error .badField
      else
        match timerRefOf (bits a 16 4) with
        | none => .error .outOfRange
        | some timer =>
          match actionOfCode (bits b 16 2) with
          | none => .error .badField
          | some action =>
            if 95 < bits b 0 8 then .error .outOfRange
            else if 4 < bits b 8 8 then .error .badField
            else if 96 < bits b 0 8 + bits b 8 8 then .error .outOfRange
            else
              match questRefOf (bits c 0 8) with
              | none => .error .outOfRange
              | some call =>
                .ok
                  { trigger := trigger, guard := guard, gated := bit a 24, timer := timer, action := action,
                    firstEffect := bits b 0 8, effectCount := bits b 8 8, call := call, notify := bit a 25 }

/-- The records of a DEFINE command, each in turn from the first; the first failure gives the status. -/
def parseRecords {α : Type} (parse : Word → Word → Word → Except Status α) (words : List Word) :
    Nat → Nat → Except Status (List α)
  | _, 0 => .ok []
  | i, n + 1 =>
    match parse (recordWord words i 0) (recordWord words i 1) (recordWord words i 2) with
    | .error st => .error st
    | .ok r =>
      match parseRecords parse words (i + 1) n with
      | .error st => .error st
      | .ok rs => .ok (r :: rs)

/-- A table with records written from an index on. -/
def writeRecords {α : Type} {n : Nat} (table : Vector α n) (first : Nat) : List α → Vector α n
  | [] => table
  | r :: rest => writeRecords (table.setIfInBounds first r) (first + 1) rest

/-- DEFINE STEPS (R42, R43). -/
def State.defineSteps (s : State) (words : List Word) : State :=
  let first := firstIndexOf words
  let count := recordCountOf words
  if 128 < first + count then s.report .outOfRange []
  else
    match parseRecords parseStep words 0 count with
    | .error st => s.report st []
    | .ok recs =>
      if (List.range count).any (fun i => s.stepInUse (first + i)) then s.report .inUse []
      else State.report { s with steps := writeRecords s.steps first recs } .ok []

/-! ### DEFINE EFFECTS (R95, R111, R112) -/

/-- R111: the watch reference of a record: held by WRITE_IF and COPY_SHADOW, none for the other kinds. -/
def parseReference (kind : EffectKind) (n : Nat) : Except Status (Option (Fin 64)) :=
  if kind.usesWatch then
    match watchRefOf n with
    | none => .error .outOfRange
    | some none => .error .badField
    | some (some w) => .ok (some w)
  else .ok none

/-- R95, R111 check 2: one effect record, normalised. -/
def parseEffect (a b c : Word) : Except Status EffectRec :=
  match kindOfCode (bits a 0 8) with
  | none => .error .badField
  | some kind =>
    if kind.isBitKind then
      if b.toNat % 4 ≠ 0 ∨ 4095 < bits a 8 16 then .error .badField
      else
        .ok
          { kind := kind, addr := bitStringAddr b.toNat (bits a 8 16), lowBit := bitStringLow (bits a 8 16),
            width := 1, value := c, ref := none }
    else if b.toNat % 4 ≠ 0 ∨ bits a 16 8 = 0 ∨ 32 < bits a 16 8 ∨ 31 < bits a 8 8
        ∨ 32 < bits a 8 8 + bits a 16 8 then .error .badField
    else
      match parseReference kind (bits a 24 8) with
      | .error st => .error st
      | .ok ref =>
        .ok
          { kind := kind, addr := b.toNat, lowBit := bits a 8 8, width := bits a 16 8, value := c, ref := ref }

/-- DEFINE EFFECTS (R111, R112). -/
def State.defineEffects (s : State) (words : List Word) : State :=
  let first := firstIndexOf words
  let count := recordCountOf words
  if 96 < first + count then s.report .outOfRange []
  else
    match parseRecords parseEffect words 0 count with
    | .error st => s.report st []
    | .ok recs =>
      if (List.range count).any (fun i => s.effectInUse (first + i)) then s.report .inUse []
      else State.report { s with effects := writeRecords s.effects first recs } .ok []

/-! ### Loading and unloading (R44, R45, R51) -/

/-- LOAD QUEST (R44, R45). -/
def State.loadQuest (s : State) (words : List Word) : State :=
  let w2 := wordAt words 2
  let first := bits w2 8 8
  let count := bits w2 16 5
  match questOf words with
  | none => s.report .outOfRange []
  | some q =>
    if 127 < first then s.report .outOfRange []
    else if count = 0 ∨ 16 < count then s.report .badField []
    else if 128 < first + count then s.report .outOfRange []
    else
      match orderOfCode (bits w2 24 2), ownerOfCode (bits w2 28 4) with
      | some order, some owner =>
        if (s.quest q).state.running then s.report .busy []
        else
          (s.updQuest q (fun _ =>
            { state := .loaded, firstStep := first, stepCount := count, current := 0, order := order,
              owner := owner, tag := wordAt words 3, parent := none, child := none, depth := 0, bound := none,
              late := false, reason := none })).report .ok []
      | _, _ => s.report .badField []

/-- UNLOAD QUEST (R51). -/
def State.unloadQuest (s : State) (words : List Word) : State :=
  match questOf words with
  | none => s.report .outOfRange []
  | some q =>
    match (s.quest q).state with
    | .vacant => s.report .notDefined []
    | .active => s.report .busy []
    | .held => s.report .busy []
    | .suspended => s.report .busy []
    | .loaded => (s.updQuest q (fun _ => Quest.cleared)).report .ok []
    | .done => (s.updQuest q (fun _ => Quest.cleared)).report .ok []
    | .failed => (s.updQuest q (fun _ => Quest.cleared)).report .ok []

/-- The four result words of READ QUEST (12.6). -/
def Quest.words (c : Quest) : List Word :=
  [ BitVec.ofNat 32
      (fieldAt 0 3 c.state.code + fieldAt 3 1 c.order.code + flagAt 4 c.late + fieldAt 8 2 c.depth
        + fieldAt 12 4 c.current + fieldAt 16 4 c.owner.code + fieldAt 20 4 (timerCode c.bound)
        + fieldAt 24 3 (reasonCode c.reason)),
    BitVec.ofNat 32
      (fieldAt 0 8 c.firstStep + fieldAt 8 8 c.stepCount + fieldAt 16 8 (questCode c.parent)
        + fieldAt 24 8 (questCode c.child)),
    c.tag,
    BitVec.ofNat 32 (fieldAt 0 8 (c.firstStep + c.current)) ]

/-- READ QUEST (R52): no field changes. -/
def State.readQuest (s : State) (words : List Word) : State :=
  match questOf words with
  | none => s.report .outOfRange []
  | some q => s.report .ok (s.quest q).words

/-! ### Starting, holding, resuming and abandoning (R46 to R50, R88 to R90) -/

/-- The work item of a command (R63): depth 0, no visits. -/
def commandWork (code : Nat) (player : Nat) : WorkItem :=
  { source := .command code, depth := 0, player := player, visits := [], task := .nextVisit }

/-- START QUEST (R46, R47). -/
def State.startQuest (s : State) (words : List Word) : State :=
  match questOf words with
  | none => s.report .outOfRange []
  | some q =>
    if (s.quest q).state = .vacant then s.report .notDefined []
    else if (s.quest q).state.running then s.report .busy []
    else
      match s.validateQuest q with
      | some st => s.report st []
      | none => State.runEngine (s.takeCommand.beginQuest (commandWork 0x23 s.turnPlayer) q 0)

/-- HOLD QUEST (R48, R90). -/
def State.holdQuest (s : State) (words : List Word) : State :=
  match questOf words with
  | none => s.report .outOfRange []
  | some q =>
    match (s.quest q).state with
    | .vacant => s.report .notDefined []
    | .active => (s.updQuest q (fun c => { c with state := .held })).report .ok []
    | .loaded => s.report .busy []
    | .held => s.report .busy []
    | .suspended => s.report .busy []
    | .done => s.report .busy []
    | .failed => s.report .busy []

/-- RESUME QUEST (R49, R90): an owed timeout action is taken within the work item. -/
def State.resumeQuest (s : State) (words : List Word) : State :=
  match questOf words with
  | none => s.report .outOfRange []
  | some q =>
    match (s.quest q).state with
    | .vacant => s.report .notDefined []
    | .held =>
      let s1 := s.takeCommand.updQuest q (fun c => { c with state := .active, late := false })
      if (s.quest q).late then s1.beginWork (.command 0x25) 0 s.turnPlayer [] (.timeout q)
      else s1.report .ok []
    | .active => s.report .busy []
    | .loaded => s.report .busy []
    | .suspended => s.report .busy []
    | .done => s.report .busy []
    | .failed => s.report .busy []

/-- The bottom quest of the chain that holds `q` (R79), following at most `n` child links. -/
def State.bottomOf (s : State) : Nat → Fin 32 → Fin 32
  | 0, q => q
  | n + 1, q =>
    match (s.quest q).child with
    | none => q
    | some c => s.bottomOf n c

/-- ABANDON QUEST (R50, R88, R89): the chain fails from its bottom quest to its top. -/
def State.abandonQuest (s : State) (words : List Word) : State :=
  match questOf words with
  | none => s.report .outOfRange []
  | some q =>
    if (s.quest q).state = .vacant then s.report .notDefined []
    else if (s.quest q).state.running then
      s.takeCommand.beginWork (.command 0x26) 0 s.turnPlayer []
        (.fail (s.bottomOf 32 q) .abandoned none (some q))
    else s.report .busy []

/-! ### Meanings -/

/-- DISARM_WATCH (R21, R22). -/
def execDisarmWatch (s : State) : Host.Outcome State Fault Refusal :=
  match s.engineHanded 0x12 with
  | some words => (s.disarmWatch words).done
  | none => .next s

/-- DEFINE_STEPS (R42, R43). -/
def execDefineSteps (s : State) : Host.Outcome State Fault Refusal :=
  match s.engineHanded 0x20 with
  | some words => (s.defineSteps words).done
  | none => .next s

/-- DEFINE_EFFECTS (R111, R112). -/
def execDefineEffects (s : State) : Host.Outcome State Fault Refusal :=
  match s.engineHanded 0x21 with
  | some words => (s.defineEffects words).done
  | none => .next s

/-- LOAD_QUEST (R44, R45). -/
def execLoadQuest (s : State) : Host.Outcome State Fault Refusal :=
  match s.engineHanded 0x22 with
  | some words => (s.loadQuest words).done
  | none => .next s

/-- START_QUEST (R46, R47). -/
def execStartQuest (s : State) : Host.Outcome State Fault Refusal :=
  match s.engineHanded 0x23 with
  | some words => (s.startQuest words).done
  | none => .next s

/-- HOLD_QUEST (R48). -/
def execHoldQuest (s : State) : Host.Outcome State Fault Refusal :=
  match s.engineHanded 0x24 with
  | some words => (s.holdQuest words).done
  | none => .next s

/-- RESUME_QUEST (R49). -/
def execResumeQuest (s : State) : Host.Outcome State Fault Refusal :=
  match s.engineHanded 0x25 with
  | some words => (s.resumeQuest words).done
  | none => .next s

/-- ABANDON_QUEST (R50, R88, R89). -/
def execAbandonQuest (s : State) : Host.Outcome State Fault Refusal :=
  match s.engineHanded 0x26 with
  | some words => (s.abandonQuest words).done
  | none => .next s

/-- UNLOAD_QUEST (R51). -/
def execUnloadQuest (s : State) : Host.Outcome State Fault Refusal :=
  match s.engineHanded 0x27 with
  | some words => (s.unloadQuest words).done
  | none => .next s

/-- READ_QUEST (R52). -/
def execReadQuest (s : State) : Host.Outcome State Fault Refusal :=
  match s.engineHanded 0x28 with
  | some words => (s.readQuest words).done
  | none => .next s

end Sys2Proof.Machine
end

