-- ==== Sys2Proof/Machine/Resets.lean ====
section
/-! DEFINITION. The two resets: power-on reset with its thirteen zero writes (R160), and the warm reset of every
block (R26, R55, R76, R114, R133, R162, R173, R184, R192). -/

namespace Sys2Proof.Machine

open Sys2Proof

/-! ### Power-on reset (R160) -/

/-- The state after a power-on reset that samples the given straps: `State.reset` with the straps; the SRAM keeps its
contents (log 4), GAME_RESET its level (log 10), and the queue of waiting commands is no state of the part. -/
def State.poweredOn (s : State) (msz256 cpselHigh : Bool) : State :=
  { State.reset with
    pending := s.pending, msz256 := msz256, cpselHigh := cpselHigh, gameReset := s.gameReset, mem := s.mem }

/-- POWER_ON_RESET (R2, R25, R53, R54, R75, R93, R113, R132, R144, R154, R160, R172, R183, R192). -/
def execPowerOnReset (msz256 cpselHigh : Bool) (s : State) : Host.Outcome State Fault Refusal :=
  .next (s.poweredOn msz256 cpselHigh)

/-- R160: the offset of zero write `k`, for `k` from 0 to 12. -/
def zeroOff (k : Nat) : Nat := 4 * k

/-- R160: whether the next zero write can be granted: the hold set, the port FREE and the stream with a place. -/
def State.zeroWriteReady (s : State) : Bool :=
  s.mpa.hold && decide (s.mpa.zeroNext < 13) && s.mpa.port.isNone && decide (s.entriesStanding < 4)

/-- R160: one zero write, with writer PART; after the thirteenth the hold becomes clear. -/
def State.zeroWrite (s : State) : State :=
  let a := s.pageAddr (zeroOff s.mpa.zeroNext)
  let s1 :=
    State.pushStream { s with mem := writeWord s.mem a 0 }
      (.write { addr := a, lanes := Lanes.all, data := 0, writer := .part, depth := 0, atPowerOn := true })
  let s2 := s1.endIRGrant
  { s2 with mpa := { s2.mpa with zeroNext := s.mpa.zeroNext + 1, hold := decide (s.mpa.zeroNext + 1 < 13) } }

/-- POWER_ON_ZERO_WRITE (R160). -/
def execPowerOnZeroWrite (s : State) : Host.Outcome State Fault Refusal :=
  if s.zeroWriteReady then s.zeroWrite.done else .next s

/-! ### Warm reset: the grant in progress (R162; log 19) -/

/-- What becomes of an IR access whose grant has begun when GAME_RESET arrives: a block that the reset leaves without it
has its access finished by the memory port, with the value it had; the notice produce index write, the ring's index
writes and the synchronising read stay with their blocks (R26, R192). -/
def State.orphaned (s : State) (a : IRAccess) : Grant :=
  match a with
  | .effectRmw =>
    match s.effectUnit with
    | .grantWait j => .orphan a (.effect j)
    | .idle => .orphan a .read
    | .settling _ _ => .orphan a .read
  | .syncRead => .ir a
  | .faultWrite => .orphan a (.write (s.pageAddr faultOff) s.fault.word)
  | .causeWrite =>
    .orphan a (.write (s.pageAddr causeOff) ((s.cause.working ||| s.cause.arrivals).setWidth 32))
  | .vectorWrite => .orphan a (.write (s.pageAddr vectorOff) (BitVec.ofNat 32 s.vectorNow))
  | .resetWrite =>
    .orphan a
      (.write (s.pageAddr (if s.cause.publication = .resetCause then causeOff else vectorOff)) 0)
  | .resultWrite =>
    match s.cmd with
    | .reporting _ next (r :: _) => .orphan a (.write (s.slotAddr next) r)
    | .reporting _ _ [] => .orphan a .read
    | .idle => .orphan a .read
    | .fetching _ => .orphan a .read
    | .dispatched _ _ => .orphan a .read
    | .advancing => .orphan a .read
  | .statusWrite =>
    match s.cmd with
    | .reporting st _ _ => .orphan a (.write (s.slotAddr 1) (statusWord st))
    | .idle => .orphan a .read
    | .fetching _ => .orphan a .read
    | .dispatched _ _ => .orphan a .read
    | .advancing => .orphan a .read
  | .consumeWrite => .orphan a (.write (s.pageAddr consumeOff) (BitVec.ofNat 32 s.consumeIndex))
  | .fetchRead => .orphan a .read
  | .elementWrite =>
    match s.notice.writer with
    | .writing k => .orphan a (.write (s.elementAddr k) (s.elementWord k))
    | .idle => .orphan a .read
    | .publishing => .orphan a .read
  | .produceWrite => .ir a
  | .ringIndexWrite => .ir a

/-- R162: the grant in progress at a warm reset goes on; a master's as it would have. -/
def State.resetGrant (s : State) : Option Grant :=
  match s.mpa.port with
  | none => none
  | some (.master m) => some (.master m)
  | some (.orphan a op) => some (.orphan a op)
  | some (.ir a) => some (s.orphaned a)

/-- R158, R162: a granted status write has installed its region change; any other pending change is discarded. -/
def State.resetRegions (s : State) : State :=
  if s.mpa.port = some (.ir .statusWrite) then s.installRegion else { s with pendingRegion := none }

/-- R162: the fault record takes the last fault written, which a granted fault word write has made the newest. -/
def State.resetFault (s : State) : FaultRec :=
  if s.mpa.port = some (.ir .faultWrite) then s.fault else s.cause.lastFault

/-! ### Warm reset: the blocks -/

/-- R26: an outstanding synchronising read whose grant has begun is finished and its completion discarded; one not
granted is withdrawn. -/
def State.resetSync (s : State) : Option SyncRead :=
  match s.syncRead with
  | none => none
  | some r =>
    if r.completed || s.mpa.port == some (.ir .syncRead) then some { r with stale := true } else none

/-- R114: whether an effect's read-modify-write has begun at the memory port: its grant is in progress and its target
permitted. -/
def State.effectTransferring (s : State) : Bool :=
  match s.mpa.port, s.effectUnit with
  | some (.ir .effectRmw), .grantWait j => s.permitsEffect j.record.addr
  | _, _ => false

/-- R114, R162, R163: how many items of the watch unit's input stand before a warm reset that comes now: what stands in the
stream for it, and the write of an effect in TRANSFER. They keep their consequences, so the watch unit takes the reset
behind them (log 32). -/
def State.inputBeforeReset (s : State) : Nat :=
  s.stream.countP StreamItem.watchDue + (if s.effectTransferring then 1 else 0)

/-- The warm reset reaches the watch unit: taken at once where no item stands before it; otherwise it waits behind those
items, or where an earlier one still waits (log 32). -/
def State.placeWatchReset (s : State) (before : Nat) : State :=
  match s.watchReset with
  | some _ => s
  | none => if before = 0 then s.takeWatchReset else { s with watchReset := some before }

/-- R55: a quest that is not VACANT becomes LOADED with its progress reset. -/
def Quest.warmReset (c : Quest) : Quest :=
  if c.state = .vacant then c
  else
    { c with
      state := .loaded, current := 0, parent := none, child := none, depth := 0, bound := none, late := false,
      reason := none }

/-- R133: a timer keeps its setting; it is STOPPED with its count loaded and no binder. -/
def Timer.warmReset (t : Timer) : Timer := { t with state := .stopped, count := t.reload, binder := none }

/-- R173: the cause unit at warm reset; the two reset writes follow. -/
def CauseUnit.warmReset (c : CauseUnit) (fault : FaultRec) : CauseUnit :=
  { c with
    pendingSet := 0, working := 0, arrivals := 0, vector := 0, int := false, publication := .resetCause,
    lastFault := fault }

/-- R192: the notice writer at warm reset: the hold queue is emptied, an element in WRITING is discarded, one in
PUBLISHING is kept, and a pending configuration is discarded. -/
def NoticeWriter.warmReset (n : NoticeWriter) : NoticeWriter :=
  match n.writer with
  | .writing _ => { n with hold := [], writer := .idle, element := none, pendingConfig := none }
  | .publishing => { n with hold := [], pendingConfig := none }
  | .idle => { n with hold := [], pendingConfig := none }

/-- The warm reset of every block, taken once, when GAME_RESET is asserted; the watch unit takes it behind the writes that
keep their consequences (R114, R162; log 32). The region map, the copies, the pools, the stream, the arbiter's memory of
grants and the masters' accesses are kept. -/
def State.warmReset (s : State) : State :=
  let s1 := s.resetRegions
  State.placeWatchReset
    { s1 with
      gameReset := true
      mpa := { s.mpa with port := s.resetGrant }
      fault := s.resetFault
      cause := s.cause.warmReset s.resetFault
      syncRead := s.resetSync
      queue := []
      quests := s.quests.map Quest.warmReset
      work := none
      effectUnit := .idle
      timers := s.timers.map Timer.warmReset
      beatOut := false
      consumeIndex := s.page.produce
      cmd := .advancing
      notice := s.notice.warmReset }
    s.inputBeforeReset

/-- WARM_RESET (R26, R55, R56, R76, R78, R93, R114, R133, R145, R162, R173, R184, R192): the level of GAME_RESET; the
reset is taken once, when the level becomes asserted (log 10). -/
def execWarmReset (asserted : Bool) (s : State) : Host.Outcome State Fault Refusal :=
  if asserted then (if s.gameReset then .next s else s.warmReset.done)
  else .next { s with gameReset := false }

end Sys2Proof.Machine
end

