-- ==== Sys2Proof/Machine/Dispatch.lean ====
section
/-! DEFINITION. The meaning of every command: one arm per row of spec/opcode_table.json. -/

namespace Sys2Proof.Machine

open Sys2Proof

/-- The effect of a command on everything but the queue of waiting commands. -/
def exec (i : Instr) (s : State) : Host.Outcome State Fault Refusal :=
  match i with
  | .powerOnReset msz256 cpselHigh => Sys2Proof.Machine.execPowerOnReset msz256 cpselHigh s
  | .powerOnZeroWrite => Sys2Proof.Machine.execPowerOnZeroWrite s
  | .warmReset asserted => Sys2Proof.Machine.execWarmReset asserted s
  | .masterRequest m a => Sys2Proof.Machine.execMasterRequest m a s
  | .masterRead => Sys2Proof.Machine.execMasterRead s
  | .masterWrite => Sys2Proof.Machine.execMasterWrite s
  | .causeWordClear => Sys2Proof.Machine.execCauseWordClear s
  | .droppedControlWrite => Sys2Proof.Machine.execDroppedControlWrite s
  | .watchTakeWrite => Sys2Proof.Machine.execWatchTakeWrite s
  | .revealCopyUpdate => Sys2Proof.Machine.execRevealCopyUpdate s
  | .enableWordTaken => Sys2Proof.Machine.execEnableWordTaken s
  | .turnWordTaken => Sys2Proof.Machine.execTurnWordTaken s
  | .commandProduceIndex => Sys2Proof.Machine.execCommandProduceIndex s
  | .noticeConsumeIndex => Sys2Proof.Machine.execNoticeConsumeIndex s
  | .beat => Sys2Proof.Machine.execBeat s
  | .timerExpiry => Sys2Proof.Machine.execTimerExpiry s
  | .syncReadComplete => Sys2Proof.Machine.execSyncReadComplete s
  | .armWatch => Sys2Proof.Machine.execArmWatch s
  | .armBitWatch => Sys2Proof.Machine.execArmBitWatch s
  | .disarmWatch => Sys2Proof.Machine.execDisarmWatch s
  | .resyncWatch => Sys2Proof.Machine.execResyncWatch s
  | .readWatch => Sys2Proof.Machine.execReadWatch s
  | .defineSteps => Sys2Proof.Machine.execDefineSteps s
  | .defineEffects => Sys2Proof.Machine.execDefineEffects s
  | .loadQuest => Sys2Proof.Machine.execLoadQuest s
  | .startQuest => Sys2Proof.Machine.execStartQuest s
  | .holdQuest => Sys2Proof.Machine.execHoldQuest s
  | .resumeQuest => Sys2Proof.Machine.execResumeQuest s
  | .abandonQuest => Sys2Proof.Machine.execAbandonQuest s
  | .unloadQuest => Sys2Proof.Machine.execUnloadQuest s
  | .readQuest => Sys2Proof.Machine.execReadQuest s
  | .setTimer => Sys2Proof.Machine.execSetTimer s
  | .presetTimer => Sys2Proof.Machine.execPresetTimer s
  | .runTimer => Sys2Proof.Machine.execRunTimer s
  | .stopTimer => Sys2Proof.Machine.execStopTimer s
  | .readTimer => Sys2Proof.Machine.execReadTimer s
  | .setRegion => Sys2Proof.Machine.execSetRegion s
  | .clearRegion => Sys2Proof.Machine.execClearRegion s
  | .setNoticeRing => Sys2Proof.Machine.execSetNoticeRing s
  | .watchTriggerTake => Sys2Proof.Machine.execWatchTriggerTake s
  | .expiryTriggerTake => Sys2Proof.Machine.execExpiryTriggerTake s
  | .effectGrant => Sys2Proof.Machine.execEffectGrant s
  | .effectSettled => Sys2Proof.Machine.execEffectSettled s
  | .faultWordWrite => Sys2Proof.Machine.execFaultWordWrite s
  | .causeWordPublish => Sys2Proof.Machine.execCauseWordPublish s
  | .vectorWordPublish => Sys2Proof.Machine.execVectorWordPublish s
  | .warmResetCauseWrite => Sys2Proof.Machine.execWarmResetCauseWrite s
  | .noticeElementWrite => Sys2Proof.Machine.execNoticeElementWrite s
  | .noticeProduceWrite => Sys2Proof.Machine.execNoticeProduceWrite s
  | .noticeRingIndexWrite => Sys2Proof.Machine.execNoticeRingIndexWrite s
  | .commandFetchRead => Sys2Proof.Machine.execCommandFetchRead s
  | .resultWordWrite => Sys2Proof.Machine.execResultWordWrite s
  | .statusWordWrite => Sys2Proof.Machine.execStatusWordWrite s
  | .consumeIndexWrite => Sys2Proof.Machine.execConsumeIndexWrite s

end Sys2Proof.Machine
end

