-- ==== Sys2Proof/Safety.lean ====
section
/-! DEFINITION. What a safe run of the part is: the laws that every step keeps. Each law is a property of one state;
the statements that every step keeps it, and that the state after reset has it, are obligations. -/

namespace Sys2Proof.Machine

open Sys2Proof

/-! ### Memory -/

/-- The SRAM is in its canonical form. -/
def MemoryLaw (s : State) : Prop := s.mem.wf

/-! ### The trigger queue (R58, R59) -/

/-- The cascade depth of an entry (R57). -/
def Trigger.depth : Trigger → Nat
  | .watch _ _ d => d
  | .expiry _ _ => 0

/-- R58, R59: at most 24 entries, at most 16 of them WATCH entries, at most one EXPIRY entry for any one timer, and no
entry of a depth greater than 7. -/
def QueueLaw (s : State) : Prop :=
  s.queue.length ≤ 24 ∧ s.queue.countP Trigger.isWatch ≤ 16
    ∧ (∀ t : Fin 8, s.queue.countP (Trigger.isExpiryOf t) ≤ 1) ∧ ∀ e ∈ s.queue, e.depth ≤ 7

/-! ### The watch table (R1 to R4) -/

/-- R1 to R4: a FREE watch is cleared; any other has a field of 1 to 32 bits inside its word, a word address that is a
multiple of 4, a non-empty filter, and an operand and a shadow of the field's width; an ARMED watch's truth is its
condition's, and the truth of a CHANGED watch is FALSE. -/
def Watch.lawful (x : Watch) : Prop :=
  match x.state with
  | .free => x = Watch.cleared
  | .syncing =>
    1 ≤ x.width ∧ x.lowBit + x.width ≤ 32 ∧ x.addr % 4 = 0 ∧ x.filter.isEmpty = false
      ∧ x.operand.toNat < 2 ^ x.width ∧ x.shadow.toNat < 2 ^ x.width
      ∧ (x.condition = .changed → x.truth = false)
  | .armed =>
    1 ≤ x.width ∧ x.lowBit + x.width ≤ 32 ∧ x.addr % 4 = 0 ∧ x.filter.isEmpty = false
      ∧ x.operand.toNat < 2 ^ x.width ∧ x.shadow.toNat < 2 ^ x.width
      ∧ x.truth = truthOf x.condition x.width x.shadow x.operand

/-- Every watch is lawful. -/
def WatchLaw (s : State) : Prop := ∀ w : Fin 64, (s.watch w).lawful

/-! ### The quest table (R30, R31, R79, R80) -/

/-- R30: a quest that is not VACANT covers 1 to 16 records of the pool; a running quest stands at one of its steps. -/
def StepsLaw (s : State) : Prop :=
  ∀ q : Fin 32,
    ((s.quest q).state ≠ .vacant →
      1 ≤ (s.quest q).stepCount ∧ (s.quest q).stepCount ≤ 16
        ∧ (s.quest q).firstStep + (s.quest q).stepCount ≤ 128)
    ∧ ((s.quest q).state.running = true → (s.quest q).current < (s.quest q).stepCount)

/-- R31: a timer names a quest as its binder exactly when the quest names the timer as its bound timer, and then the
quest is ACTIVE or HELD and its current step names the timer. -/
def BindingLaw (s : State) : Prop :=
  ∀ (t : Fin 8) (q : Fin 32),
    ((s.timer t).binder = some q ↔ (s.quest q).bound = some t)
    ∧ ((s.quest q).bound = some t →
        ((s.quest q).state = .active ∨ (s.quest q).state = .held) ∧ (s.currentStep q).timer = some t)

/-- R79: a quest names another as its child exactly when the other names it as its parent, and then the parent is
SUSPENDED and the child is running. -/
def LinkLaw (s : State) : Prop :=
  ∀ p c : Fin 32,
    ((s.quest p).child = some c ↔ (s.quest c).parent = some p)
    ∧ ((s.quest p).child = some c → (s.quest p).state = .suspended ∧ (s.quest c).state.running = true)

/-- R80: a quest with a parent has a depth one greater than its parent's, every depth is at most 3, and a running quest
without a parent has depth 0. -/
def DepthLaw (s : State) : Prop :=
  ∀ q : Fin 32,
    (s.quest q).depth ≤ 3
    ∧ (∀ p : Fin 32, (s.quest q).parent = some p → (s.quest q).depth = (s.quest p).depth + 1)
    ∧ ((s.quest q).parent = none → (s.quest q).state.running = true → (s.quest q).depth = 0)

/-- What the part of a work item that comes next finds in the quest it acts on: a quest whose step passes or times out is
ACTIVE, its binding released where the pass has released it (R33); a quest that fails is running, without a child
(R87). -/
def Task.lawful (s : State) : Task → Prop
  | .nextVisit => True
  | .pass q => (s.quest q).state = .active
  | .effects q _ _ => (s.quest q).state = .active ∧ (s.quest q).bound = none
  | .awaiting q _ _ => (s.quest q).state = .active ∧ (s.quest q).bound = none
  | .passed q _ => (s.quest q).state = .active ∧ (s.quest q).bound = none
  | .advance q _ => (s.quest q).state = .active ∧ (s.quest q).bound = none
  | .timeout q => (s.quest q).state = .active
  | .fail q _ _ _ => (s.quest q).state.running = true ∧ (s.quest q).child = none

/-- The work item in progress, if there is one, acts on quests as its rules require. -/
def WorkLaw (s : State) : Prop := ∀ w : WorkItem, s.work = some w → w.task.lawful s

/-- The laws of the quest table together: R30, R31, R79, R80. They rest on one another, so they are kept together. -/
def EngineLaw (s : State) : Prop :=
  StepsLaw s ∧ BindingLaw s ∧ LinkLaw s ∧ DepthLaw s ∧ WorkLaw s

/-! ### Timers (R115, R116) -/

/-- R116: between the timer unit's events every RUNNING timer has a count of at least 1: no expiry is under way. -/
abbrev SettledTimers (s : State) : Prop := ∀ t : Fin 8, (s.timer t).expiryDue = false

/-! ### The interrupt (R169, R171) -/

/-- R171: INT is asserted exactly while a cause is both pending and enabled, and the vector names the highest of them,
or 0. -/
def InterruptLaw (s : State) : Prop :=
  s.cause.int = (s.cause.pendingSet &&& s.cause.enableSet != 0)
    ∧ s.cause.vector.toNat = highestCause (s.cause.pendingSet &&& s.cause.enableSet)

/-! ### The notice writer and the command ring (R174, R185, R188) -/

/-- R185, R191: a ring configuration has 8 to 256 elements. -/
def ringSizeLawful (n : Nat) : Prop := 8 ≤ n ∧ n ≤ 256

/-- R174, R185, R188: at most 8 notices are held; every index lies in its ring. -/
def RingLaw (s : State) : Prop :=
  s.notice.hold.length ≤ 8 ∧ s.consumeIndex < 32 ∧ s.page.produce < 32
    ∧ (s.notice.ringSet = true →
        ringSizeLawful s.notice.size ∧ s.notice.produce < s.notice.size ∧ s.page.consume < s.notice.size)
    ∧ (∀ c, s.notice.pendingConfig = some c → ringSizeLawful c.2)

/-! ### The memory port (R147, R149, R151, R160) -/

/-- R151: at most four entries stand in the snoop stream, and a grant is made only while there is a place. -/
def StreamLaw (s : State) : Prop :=
  s.entriesStanding ≤ 4 ∧ (s.mpa.port.isSome = true → s.entriesStanding ≤ 3)

/-- R149: whether the sub-client whose access this is has it ready. -/
def State.requestStands (s : State) : IRAccess → Prop
  | .effectRmw => ∃ j, s.effectUnit = .grantWait j
  | .syncRead => ∃ r, s.syncRead = some r ∧ r.completed = false
  | .faultWrite => s.cause.publication = .raising
  | .causeWrite => s.cause.publication = .raising
  | .vectorWrite => s.cause.publication = .vectoring
  | .resetWrite => s.cause.publication = .resetCause ∨ s.cause.publication = .resetVector
  | .elementWrite => ∃ k, s.notice.writer = .writing k
  | .produceWrite => s.notice.writer = .publishing
  | .ringIndexWrite => s.notice.writer = .idle ∧ s.notice.indexWrites ≠ 0
  | .fetchRead => ∃ ws, s.cmd = .fetching ws
  | .resultWrite => ∃ st k r rs, s.cmd = .reporting st k (r :: rs)
  | .statusWrite => ∃ st k, s.cmd = .reporting st k []
  | .consumeWrite => s.cmd = .advancing

/-- R147, R149: a grant in progress serves an access that its requester has outstanding; none is made during the
power-on hold, which lasts for thirteen zero writes (R160); a command's work item keeps its command in the command
unit (R64, R176). -/
def GrantLaw (s : State) : Prop :=
  (∀ m, s.mpa.port = some (.master m) → (s.port m).access.isSome = true)
    ∧ (∀ a, s.mpa.port = some (.ir a) → s.requestStands a)
    ∧ (s.mpa.hold = true → s.mpa.port = none)
    ∧ s.mpa.hold = decide (s.mpa.zeroNext < 13)
    ∧ s.mpa.zeroNext ≤ 13
    ∧ (∀ w code, s.work = some w → w.source = .command code →
        engineCode code = true ∧ ∃ ws, s.cmd = .dispatched ws true ∧ codeOf ws = code)

/-! ### The copies and the shadows (R6, R140, R166 to R168) -/

/-- A word with the writes that a block has yet to take, oldest first: those of the given word address. -/
def afterWrites (b : Snooper) (a : Nat) (word : Word) (stream : List StreamItem) : Word :=
  stream.foldl
    (fun acc it =>
      match it.body with
      | .write e => if it.due b && e.addr == a then mergeLanes e.lanes acc e.data else acc
      | .syncMark _ => acc)
    word

/-- The word of the synchronising read's completion that the watch unit has yet to take, with what stands behind it. -/
def standingMark : List StreamItem → Option (Word × List StreamItem)
  | [] => none
  | it :: rest =>
    match it.body with
    | .write _ => standingMark rest
    | .syncMark word => if it.watchDue then some (word, rest) else standingMark rest

/-- Every address that the part will write a word to is a multiple of 4: the effects' targets, in the pool, in the effect
unit and in a withdrawn grant, and the notice ring's base. -/
def AlignmentLaw (s : State) : Prop :=
  (∀ n, (s.effectRec n).addr % 4 = 0)
    ∧ (∀ j, s.effectUnit = .grantWait j → j.record.addr % 4 = 0)
    ∧ (∀ a j, s.mpa.port = some (.orphan a (.effect j)) → j.record.addr % 4 = 0)
    ∧ (∀ a n w, s.mpa.port = some (.orphan a (.write n w)) → n % 4 = 0)
    ∧ s.notice.base % 4 = 0
    ∧ (∀ c, s.notice.pendingConfig = some c → c.1 % 4 = 0)
    ∧ ∀ it ∈ s.stream, ∀ e, it.body = .write e → e.addr % 4 = 0

/-- R13, R16: the completion of the outstanding read stands in the stream exactly once it is completed, and an outstanding
read that its watch has not given up is of that SYNCING watch's word. -/
def SyncLaw (s : State) : Prop :=
  (s.stream.countP (fun it => !it.isEntry && it.watchDue) = match s.syncRead with
    | some r => if r.completed then 1 else 0
    | none => 0)
    ∧ (s.mpa.port = some (.ir .syncRead) → ∃ r, s.syncRead = some r ∧ r.completed = false)
    ∧ ∀ r, s.syncRead = some r → r.stale = false →
        (s.watch r.watch).state = .syncing ∧ (s.watch r.watch).addr = r.addr

/-- R6, R15: an ARMED watch's shadow, with the writes that the watch unit has yet to take, is the field of the word that
memory holds; the word of a completed synchronising read, with the writes behind it, is the word that memory holds. -/
def ShadowLaw (s : State) : Prop :=
  MemoryLaw s ∧ WatchLaw s ∧ AlignmentLaw s ∧ SyncLaw s
    ∧ (∀ w : Fin 64, (s.watch w).state = .armed →
        extractField (afterWrites .watch (s.watch w).addr ((s.watch w).shadow <<< (s.watch w).lowBit) s.stream)
            (s.watch w).lowBit (s.watch w).width
          = extractField (readWord s.mem (s.watch w).addr) (s.watch w).lowBit (s.watch w).width)
    ∧ ∀ r, s.syncRead = some r → r.stale = false →
        ∀ word rest, standingMark s.stream = some (word, rest) →
          afterWrites .watch r.addr word rest = readWord s.mem r.addr

/-- R140, R144, R166 to R168: each copy of a host-owned word, with the writes that its block has yet to take, is the word
that memory holds, from the zero write of that word on (R160: word `k` is zero write `k`). The fog unit has passed over what
does not concern it (R151): the write it takes next is of a reveal word. -/
def CopyLaw (s : State) : Prop :=
  MemoryLaw s ∧ AlignmentLaw s
    ∧ (∀ e, s.nextFor .fog = some (.write e) → s.isRevealWord e.addr = true)
    ∧ (1 < s.mpa.zeroNext →
        afterWrites .page (s.pageAddr enableOff) s.page.enable s.stream = readWord s.mem (s.pageAddr enableOff))
    ∧ (3 < s.mpa.zeroNext →
        afterWrites .page (s.pageAddr turnOff) s.page.turn s.stream = readWord s.mem (s.pageAddr turnOff))
    ∧ (8 < s.mpa.zeroNext →
        afterWrites .page (s.pageAddr produceOff) s.page.produceImage s.stream
          = readWord s.mem (s.pageAddr produceOff))
    ∧ (11 < s.mpa.zeroNext →
        afterWrites .page (s.pageAddr noticeConsumeOff) s.page.consumeImage s.stream
          = readWord s.mem (s.pageAddr noticeConsumeOff))
    ∧ ∀ i : Fin 4, 4 + i.val < s.mpa.zeroNext →
        afterWrites .fog (s.pageAddr (revealOff + 4 * i.val)) s.reveal[i] s.stream
          = readWord s.mem (s.pageAddr (revealOff + 4 * i.val))

/-! ### When a command's occasion stands -/

/-- The command unit has handed over a command with the given code and words, and its block has not taken it (R179). -/
abbrev State.hands (s : State) (code : Nat) (words : List Word) : Prop :=
  s.cmd = .dispatched words false ∧ codeOf words = code

/-- The same, for a command that the quest engine takes: the engine is idle (R65). -/
abbrev State.handsEngine (s : State) (code : Nat) (words : List Word) : Prop :=
  s.hands code words ∧ s.work = none

/-- A master's grant is in progress for the given access, which is permitted (R147, R150, R153). -/
abbrev State.servesPermitted (s : State) (m : Master) (a : Access) : Prop :=
  s.mpa.port = some (.master m) ∧ (s.port m).access = some a ∧ s.permits m a = true

/-! ### Which bytes a command stores to -/

/-- Whether a set of lanes holds lane `i`. -/
def Lanes.has (l : Lanes) : Nat → Bool
  | 0 => l.l0
  | 1 => l.l1
  | 2 => l.l2
  | 3 => l.l3
  | _ => false

/-- The word and the lanes that a master's write in progress is stored to (R150, R164, R170): none where it is refused or
dropped. -/
def State.masterTarget (s : State) (clears : Bool) : Option (Nat × Lanes) :=
  match s.grantedAccess with
  | none => none
  | some (m, a) =>
    match a.dir with
    | .read => none
    | .write =>
      if s.permits m a = false then none
      else
        match s.interception m (wordAddrOf a) with
        | .passes => if clears then none else some (wordAddrOf a, lanesOf a)
        | .clears => if clears then some (s.pageAddr causeOff, Lanes.all) else none
        | .dropped => none

/-- The word that a withdrawn grant is stored to (R162; log 19). -/
def State.orphanTarget (s : State) : OrphanOp → Option Nat
  | .read => none
  | .write a _ => some a
  | .effect j => if s.permitsEffect j.record.addr then some j.record.addr else none

/-- The word that a step of the internal requester is stored to: `own` where the grant in progress is for its own access,
and what is left of a withdrawn grant of that kind. -/
def State.irTarget (s : State) (a : IRAccess) (own : Option Nat) : Option (Nat × Lanes) :=
  match s.mpa.port with
  | none => none
  | some (.master _) => none
  | some (.ir b) => if b = a then own.map (fun n => (n, Lanes.all)) else none
  | some (.orphan b op) => if b = a then (s.orphanTarget op).map (fun n => (n, Lanes.all)) else none

/-- The word and the lanes that a command stores to, if it stores at all. -/
def State.storesTo (s : State) : Instr → Option (Nat × Lanes)
  | .powerOnZeroWrite => if s.zeroWriteReady then some (s.pageAddr (zeroOff s.mpa.zeroNext), Lanes.all) else none
  | .masterWrite => s.masterTarget false
  | .causeWordClear => s.masterTarget true
  | .effectGrant =>
    s.irTarget .effectRmw
      (match s.effectUnit with
      | .grantWait j => if s.permitsEffect j.record.addr then some j.record.addr else none
      | .idle => none
      | .settling _ _ => none)
  | .faultWordWrite => s.irTarget .faultWrite (some (s.pageAddr faultOff))
  | .causeWordPublish => s.irTarget .causeWrite (some (s.pageAddr causeOff))
  | .vectorWordPublish => s.irTarget .vectorWrite (some (s.pageAddr vectorOff))
  | .warmResetCauseWrite =>
    s.irTarget .resetWrite
      (match s.cause.publication with
      | .resetCause => some (s.pageAddr causeOff)
      | .resetVector => some (s.pageAddr vectorOff)
      | .idle => none
      | .raising => none
      | .vectoring => none)
  | .noticeElementWrite =>
    s.irTarget .elementWrite
      (match s.notice.writer with
      | .writing k => some (s.elementAddr k)
      | .idle => none
      | .publishing => none)
  | .noticeProduceWrite =>
    if s.mpa.port = some (.ir .produceWrite) then some (s.pageAddr noticeProduceOff, Lanes.all) else none
  | .noticeRingIndexWrite =>
    if s.mpa.port = some (.ir .ringIndexWrite) then
      some (s.pageAddr (if s.notice.indexWrites = 2 then noticeProduceOff else noticeConsumeOff), Lanes.all)
    else none
  | .commandFetchRead => s.irTarget .fetchRead none
  | .resultWordWrite =>
    s.irTarget .resultWrite
      (match s.cmd with
      | .reporting _ next (_ :: _) => some (s.slotAddr next)
      | .reporting _ _ [] => none
      | .idle => none
      | .fetching _ => none
      | .dispatched _ _ => none
      | .advancing => none)
  | .statusWordWrite =>
    s.irTarget .statusWrite
      (match s.cmd with
      | .reporting _ _ _ => some (s.slotAddr 1)
      | .idle => none
      | .fetching _ => none
      | .dispatched _ _ => none
      | .advancing => none)
  | .consumeIndexWrite => s.irTarget .consumeWrite (some (s.pageAddr consumeOff))
  | .powerOnReset _ _ | .warmReset _ | .masterRequest _ _ | .masterRead | .droppedControlWrite | .watchTakeWrite
  | .revealCopyUpdate | .enableWordTaken | .turnWordTaken | .commandProduceIndex | .noticeConsumeIndex | .beat
  | .timerExpiry | .syncReadComplete | .armWatch | .armBitWatch | .disarmWatch | .resyncWatch | .readWatch
  | .defineSteps | .defineEffects | .loadQuest | .startQuest | .holdQuest | .resumeQuest | .abandonQuest
  | .unloadQuest | .readQuest | .setTimer | .presetTimer | .runTimer | .stopTimer | .readTimer | .setRegion
  | .clearRegion | .setNoticeRing | .watchTriggerTake | .expiryTriggerTake | .effectSettled => none

end Sys2Proof.Machine
end

