-- ==== Sys2Proof/Certificates/Slice0/Obligations.lean ====
section
/-! DEFINITION. The statements for the provers. A command that takes place answers
`.next (State.react u)`: `u` is the state with the command's own effect, and `State.react` begins a publication and
makes a grant where they are due (`Obligations.ReactionPublishesAndGrants`); all that a record update does not name is
unchanged. -/

open Sys2Proof Sys2Proof.Machine

/-! ### The queue of waiting commands -/

/-- The command at the front of the queue runs on the state with the queue's rest (log 2); on an empty queue the part
idles (log 2, DESIGN CHOICE). -/
def Obligations.StepRunsFrontCommand : Prop :=
  (∀ (s : State) (c : Instr) (rest : List Instr),
      step { s with pending := c :: rest } = exec c { s with pending := rest })
  ∧ ∀ s : State, s.pending = [] → step s = .next s

/-- Every command answers a next state in every state, and the queue of waiting commands is as it was. -/
def Obligations.EveryCommandAnswersNext : Prop :=
  ∀ (c : Instr) (s : State), ∃ t, exec c s = .next t ∧ t.pending = s.pending

/-- R147, R148, R149, R151, R169: what follows at once from every step. Only the publication and the port change: an IDLE
cause unit begins a publication where one is due, and a FREE port, with no power-on hold and a place in the stream, is
granted by the table of R148; the internal requester's request is that of its first sub-client with one ready. Each
sub-client has ready what its state asks for: the effect unit its read-modify-write while it waits for the grant (R98); the
watch unit its synchronising read until it has completed (R13); the cause unit, in a publication before its second step, the
fault word's write while the record differs from the one last written and else the cause word's (R156, R169; the choice at
the grant is DEDUCED, log 11), then the vector word's, and after a warm reset its two writes (R173); the notice writer the
element's words, the produce index, and the two index writes of a ring installed (R188, R191); the command unit the block's
words, the result words, the status word and the consume index (R177, R180, R181). A write that stands for some block takes
a place in the stream, a mark none (DEDUCED, log 6). -/
def Obligations.ReactionPublishesAndGrants : Prop :=
  (∀ s : State,
    (∀ j, s.effectUnit = .grantWait j → s.effectRequest = some .effectRmw)
    ∧ ((∀ j, s.effectUnit ≠ .grantWait j) → s.effectRequest = none)
    ∧ (s.syncRead = none → s.watchRequest = none)
    ∧ (∀ r, s.syncRead = some r → s.watchRequest = if r.completed = true then none else some .syncRead)
    ∧ (s.cause.publication = .idle → s.causeRequest = none)
    ∧ (s.cause.publication = .raising →
        s.causeRequest = if s.fault = s.cause.lastFault then some .causeWrite else some .faultWrite)
    ∧ (s.cause.publication = .vectoring → s.causeRequest = some .vectorWrite)
    ∧ ((s.cause.publication = .resetCause ∨ s.cause.publication = .resetVector) →
        s.causeRequest = some .resetWrite)
    ∧ (∀ k, s.notice.writer = .writing k → s.noticeRequest = some .elementWrite)
    ∧ (s.notice.writer = .publishing → s.noticeRequest = some .produceWrite)
    ∧ (s.notice.writer = .idle →
        s.noticeRequest = if s.notice.indexWrites = 0 then none else some .ringIndexWrite)
    ∧ ((s.cmd = .idle ∨ ∃ words taken, s.cmd = .dispatched words taken) → s.commandRequest = none)
    ∧ (∀ words, s.cmd = .fetching words → s.commandRequest = some .fetchRead)
    ∧ (∀ st next results, s.cmd = .reporting st next results →
        s.commandRequest = if results = [] then some .statusWrite else some .resultWrite)
    ∧ (s.cmd = .advancing → s.commandRequest = some .consumeWrite)
    ∧ s.entriesStanding =
        s.stream.countP (fun it => match it.body with | .write _ => true | .syncMark _ => false))
  ∧ ∀ s : State, ∃ (u : Publication) (p : Option Grant) (r : Option IRAccess),
    s.react = { s with mpa := { s.mpa with port := p }, cause := { s.cause with publication := u } }
    ∧ (s.cause.publication = .idle →
        (s.cause.arrivals ≠ 0 ∨ s.cause.working ≠ s.cause.pendingSet ∨ s.cause.handed ≠ s.cause.enableSet
          ∨ s.fault ≠ s.cause.lastFault) → u = .raising)
    ∧ (s.cause.publication = .idle → s.cause.arrivals = 0 → s.cause.working = s.cause.pendingSet →
        s.cause.handed = s.cause.enableSet → s.fault = s.cause.lastFault → u = .idle)
    ∧ (s.cause.publication ≠ .idle → u = s.cause.publication)
    ∧ r = [s.effectRequest, s.watchRequest,
            State.causeRequest { s with cause := { s.cause with publication := u } }, s.noticeRequest,
            s.commandRequest].findSome? id
    ∧ ((s.mpa.port ≠ none ∨ s.mpa.hold = true ∨ 4 ≤ s.entriesStanding) → p = s.mpa.port)
    ∧ (s.mpa.port = none → s.mpa.hold = false → s.entriesStanding < 4 →
        (∀ a, r = some a →
          ((s.procPort.access = none ∧ s.scanPort.access = none) ∨ s.mpa.previousIR = false) → p = some (.ir a))
        ∧ (∀ m, (s.port m).access ≠ none → (s.port (otherMaster m)).access = none →
            (r = none ∨ s.mpa.previousIR = true) → p = some (.master m))
        ∧ (s.procPort.access ≠ none → s.scanPort.access ≠ none → (r = none ∨ s.mpa.previousIR = true) →
            p = some (.master (otherMaster s.mpa.lastMaster)))
        ∧ (r = none → s.procPort.access = none → s.scanPort.access = none → p = none))

/-! ### Memory -/

/-- A write of lanes reads back: the written lanes hold the written bytes, every other byte is as it was, and the
canonical form is kept. -/
def Obligations.MemoryReadsBackWrites : Prop :=
  ∀ (m : Memory) (a : Nat) (l : Lanes) (w : Word), m.wf →
    (writeLanes m a l w).wf
    ∧ (∀ x, (∀ i, i < 4 → l.has i = true → x ≠ a + i) → readByte (writeLanes m a l w) x = readByte m x)
    ∧ (∀ i, i < 4 → l.has i = true → readByte (writeLanes m a l w) (a + i) = laneByte w i)
    ∧ readWord (writeLanes m a l w) a = mergeLanes l (readWord m a) w

/-- Every command leaves every byte of memory unchanged but those of the lanes of the one word that it stores to; a command
that stores nothing leaves all of memory unchanged. POWER_ON_RESET keeps memory (DESIGN CHOICE, log 4), and a withdrawn
grant stores to the word that it had (DEDUCED, log 19). -/
def Obligations.CommandsStoreOnlyTheirLanes : Prop :=
  ∀ (c : Instr) (s t : State), exec c s = .next t →
    ∀ x : Nat, (∀ a l, s.storesTo c = some (a, l) → ∀ i, i < 4 → l.has i = true → x ≠ a + i) →
      readByte t.mem x = readByte s.mem x

/-! ### The resets -/

/-- R2, R25, R27, R53, R54, R75, R113, R132, R144, R154, R160, R172, R183, R192: what POWER_ON_RESET leaves, with the straps
it samples. Memory is kept (DESIGN CHOICE, log 4), GAME_RESET keeps its level (DESIGN CHOICE, log 10), the masters' ports
are empty (DESIGN CHOICE, log 23) and their data is 0 (DESIGN CHOICE, log 13). -/
def Obligations.PowerOnResetLeavesClearedState : Prop :=
  ∀ (msz256 cpselHigh : Bool) (s : State), ∃ t, exec (.powerOnReset msz256 cpselHigh) s = .next t
    ∧ t.msz256 = msz256 ∧ t.cpselHigh = cpselHigh ∧ t.gameReset = s.gameReset ∧ t.mem = s.mem
    ∧ t.mpa = { port := none, lastMaster := .scan, previousIR := false, hold := true, zeroNext := 0 }
    ∧ t.procPort = { access := none, data := 0 } ∧ t.scanPort = { access := none, data := 0 }
    ∧ t.stream = []
    ∧ (∀ n : Fin 16, t.region n =
        { enabled := false, base := 0, limit := 0, rights := ⟨false, false, false, false, false⟩, fog := false,
          stride := .b16, firstTile := 0, fogWord := 0 })
    ∧ t.pendingRegion = none
    ∧ t.fault = { writer := .proc, dir := .read, addr := 0 }
    ∧ (∀ i : Fin 4, t.reveal[i] = 0)
    ∧ t.page = { enable := 0, turn := 0, produceImage := 0, consumeImage := 0, produce := 0, consume := 0 }
    ∧ t.cause =
        { pendingSet := 0, working := 0, arrivals := 0, enableSet := 0, handed := 0, vector := 0, int := false,
          publication := .idle, lastFault := { writer := .proc, dir := .read, addr := 0 } }
    ∧ (∀ w : Fin 64, t.watch w = Watch.cleared)
    ∧ t.syncRead = none ∧ t.watchReset = none ∧ t.queue = []
    ∧ (∀ q : Fin 32, t.quest q =
        { state := .vacant, firstStep := 0, stepCount := 0, current := 0, order := .strict, owner := .player 0,
          tag := 0, parent := none, child := none, depth := 0, bound := none, late := false, reason := none })
    ∧ (∀ n, n < 128 → t.stepRec n =
        { trigger := some 0, guard := some 0, gated := false, timer := some 0, action := .fail, firstEffect := 0,
          effectCount := 0, call := some 0, notify := false })
    ∧ t.work = none
    ∧ (∀ n, n < 96 → t.effectRec n =
        { kind := .setBit, addr := 0, lowBit := 0, width := 1, value := 0, ref := none })
    ∧ t.effectUnit = .idle
    ∧ (∀ k : Fin 8, t.timer k =
        { reload := 0, count := 0, state := .stopped, clock := .beat, mode := .oneShot, route := false,
          binder := none })
    ∧ t.beatOut = false ∧ t.consumeIndex = 0 ∧ t.cmd = .idle
    ∧ t.notice =
        { ringSet := false, base := 0, size := 0, produce := 0, hold := [], writer := .idle, element := none,
          pendingConfig := none, indexWrites := 0 }

/-- R160: while the hold is set, each zero write clears one control-page word, from offset 0x000 upwards, with writer PART,
and enters the stream; the hold becomes clear with the thirteenth. Where the write cannot be granted (the hold clear, the
port not FREE, no place in the stream) nothing changes (DESIGN CHOICE, log 1). -/
def Obligations.ZeroWritesClearThePageAndEndTheHold : Prop :=
  (∀ s : State, s.mpa.hold = true → s.mpa.zeroNext < 13 → s.mpa.port = none → s.entriesStanding < 4 →
    exec .powerOnZeroWrite s =
      .next (State.react
        { State.pushStream { s with mem := writeWord s.mem (s.pageBase + 4 * s.mpa.zeroNext) 0 }
            (.write
              { addr := s.pageBase + 4 * s.mpa.zeroNext, lanes := Lanes.all, data := 0, writer := .part,
                depth := 0, atPowerOn := true }) with
          mpa :=
            { s.mpa with
              previousIR := true, zeroNext := s.mpa.zeroNext + 1, hold := decide (s.mpa.zeroNext + 1 < 13) } }))
  ∧ ∀ s : State, (s.mpa.hold = false ∨ 13 ≤ s.mpa.zeroNext ∨ s.mpa.port ≠ none ∨ 4 ≤ s.entriesStanding) →
      exec .powerOnZeroWrite s = .next s

/-- R26, R55, R56, R76, R78, R114, R133, R145, R162, R173, R184, R192: what the assertion of GAME_RESET leaves, when it
finds GAME_RESET deasserted. GAME_RESET is a level, and the reset is taken once, when the level becomes asserted (DESIGN
CHOICE, log 10). The watch unit takes the reset behind the items that stand before it in its input: those of the stream, and
the write of an effect in TRANSFER (DESIGN CHOICE, log 32). A synchronising read that has begun is to be discarded, another
one withdrawn. A grant in progress goes on: a master's, the synchronising read's and the notice writer's index writes with
their block, any other withdrawn, with the word it had at the reset (DEDUCED, logs 19 and 31); such a grant then ends with
that word. -/
def Obligations.WarmResetEndsPlayAndKeepsDefinitions : Prop :=
  (∀ s : State, s.gameReset = true → exec (.warmReset true) s = .next s)
  ∧ (∀ s : State, exec (.warmReset false) s = .next { s with gameReset := false })
  ∧ (∀ s : State, s.gameReset = false → ∃ t, exec (.warmReset true) s = .next t
    ∧ t.gameReset = true ∧ t.msz256 = s.msz256 ∧ t.cpselHigh = s.cpselHigh
    ∧ t.mem = s.mem ∧ t.stream = s.stream ∧ t.reveal = s.reveal ∧ t.page = s.page
    ∧ t.steps = s.steps ∧ t.effects = s.effects
    ∧ t.procPort = s.procPort ∧ t.scanPort = s.scanPort ∧ t.mpa = { s.mpa with port := t.mpa.port }
    ∧ (∀ q : Fin 32, t.quest q =
        if (s.quest q).state = .vacant then s.quest q
        else
          { s.quest q with
            state := .loaded, current := 0, parent := none, child := none, depth := 0, bound := none,
            late := false, reason := none })
    ∧ (∀ k : Fin 8, t.timer k =
        { s.timer k with state := .stopped, count := (s.timer k).reload, binder := none })
    ∧ t.beatOut = false ∧ t.queue = [] ∧ t.work = none ∧ t.effectUnit = .idle
    ∧ t.consumeIndex = s.page.produce ∧ t.cmd = .advancing
    ∧ t.cause.pendingSet = 0 ∧ t.cause.working = 0 ∧ t.cause.arrivals = 0 ∧ t.cause.vector = 0
    ∧ t.cause.int = false ∧ t.cause.enableSet = s.cause.enableSet ∧ t.cause.handed = s.cause.handed
    ∧ t.cause.publication = .resetCause ∧ t.fault = t.cause.lastFault
    ∧ (s.mpa.port ≠ some (.ir .faultWrite) → t.cause.lastFault = s.cause.lastFault)
    ∧ (s.mpa.port = some (.ir .faultWrite) → t.cause.lastFault = s.fault)
    ∧ t.pendingRegion = none
    ∧ (s.mpa.port ≠ some (.ir .statusWrite) → t.regions = s.regions)
    ∧ (s.mpa.port = some (.ir .statusWrite) → s.pendingRegion = none → t.regions = s.regions)
    ∧ (∀ n r, s.mpa.port = some (.ir .statusWrite) → s.pendingRegion = some (n, r) →
        t.regions = s.regions.set n.val r n.isLt)
    ∧ t.notice.hold = [] ∧ t.notice.pendingConfig = none ∧ t.notice.ringSet = s.notice.ringSet
    ∧ t.notice.base = s.notice.base ∧ t.notice.size = s.notice.size ∧ t.notice.produce = s.notice.produce
    ∧ t.notice.indexWrites = s.notice.indexWrites
    ∧ (s.notice.writer = .publishing → t.notice.writer = .publishing ∧ t.notice.element = s.notice.element)
    ∧ (∀ k, s.notice.writer = .writing k → t.notice.writer = .idle ∧ t.notice.element = none)
    ∧ (∀ (transfer : Bool) (n : Nat),
        (transfer = true ↔ s.mpa.port = some (.ir .effectRmw)
          ∧ ∃ j, s.effectUnit = .grantWait j ∧ s.permitsEffect j.record.addr = true) →
        n = s.stream.countP (fun it => it.watchDue) + (if transfer = true then 1 else 0) →
        (s.watchReset = none → n = 0 → t.watchReset = none ∧ ∀ w : Fin 64, t.watch w =
          if (s.watch w).state = .free then s.watch w else { s.watch w with state := .syncing, missed := false })
        ∧ (s.watchReset = none → n ≠ 0 → t.watchReset = some n ∧ t.watches = s.watches)
        ∧ (s.watchReset ≠ none → t.watchReset = s.watchReset ∧ t.watches = s.watches))
    ∧ (∀ r, s.syncRead = some r → (r.completed = true ∨ s.mpa.port = some (.ir .syncRead)) →
        t.syncRead = some { r with stale := true })
    ∧ ((s.syncRead = none
          ∨ ∃ r, s.syncRead = some r ∧ r.completed = false ∧ s.mpa.port ≠ some (.ir .syncRead)) →
        (t.watchReset ≠ none → t.syncRead = none)
        ∧ (t.watchReset = none → (∀ w : Fin 64, (s.watch w).state = .free) → t.syncRead = none)
        ∧ ∀ w : Fin 64, t.watchReset = none → (s.watch w).state ≠ .free →
            (∀ v : Fin 64, v < w → (s.watch v).state = .free) →
            t.syncRead = some { watch := w, addr := (s.watch w).addr, completed := false, stale := false })
    ∧ (∀ m, s.mpa.port = some (.master m) → t.mpa.port = some (.master m))
    ∧ (∀ a op, s.mpa.port = some (.orphan a op) → t.mpa.port = some (.orphan a op))
    ∧ (∀ a ∈ [IRAccess.syncRead, .produceWrite, .ringIndexWrite], s.mpa.port = some (.ir a) →
        t.mpa.port = some (.ir a))
    ∧ (s.mpa.port = some (.ir .fetchRead) → t.mpa.port = some (.orphan .fetchRead .read))
    ∧ (∀ j, s.mpa.port = some (.ir .effectRmw) → s.effectUnit = .grantWait j →
        t.mpa.port = some (.orphan .effectRmw (.effect j)))
    ∧ (s.mpa.port = some (.ir .faultWrite) →
        t.mpa.port = some (.orphan .faultWrite (.write (s.pageBase + 0x030) s.fault.word)))
    ∧ (s.mpa.port = some (.ir .causeWrite) →
        t.mpa.port =
          some (.orphan .causeWrite (.write s.pageBase ((s.cause.working ||| s.cause.arrivals).setWidth 32))))
    ∧ (∀ n : Nat, s.mpa.port = some (.ir .vectorWrite) →
        ((∀ i, i < 15 → (s.cause.working &&& s.cause.handed).getLsbD i = false) → n = 0) →
        (∀ k, k < 15 → (s.cause.working &&& s.cause.handed).getLsbD k = true →
          (∀ i, k < i → i < 15 → (s.cause.working &&& s.cause.handed).getLsbD i = false) → n = k + 1) →
        t.mpa.port = some (.orphan .vectorWrite (.write (s.pageBase + 0x008) (BitVec.ofNat 32 n))))
    ∧ (s.mpa.port = some (.ir .resetWrite) →
        t.mpa.port =
          some (.orphan .resetWrite
            (.write (if s.cause.publication = .resetCause then s.pageBase else s.pageBase + 0x008) 0)))
    ∧ (∀ k n, s.mpa.port = some (.ir .elementWrite) → s.notice.writer = .writing k → s.notice.element = some n →
        t.mpa.port =
          some (.orphan .elementWrite
            (.write (s.notice.base + 32 * s.notice.produce + 4 * k) (n.words.getD k 0))))
    ∧ (∀ st k r rest, s.mpa.port = some (.ir .resultWrite) → s.cmd = .reporting st k (r :: rest) →
        t.mpa.port =
          some (.orphan .resultWrite (.write (s.pageBase + 0x800 + 64 * s.consumeIndex + 4 * k) r)))
    ∧ (∀ st k rs, s.mpa.port = some (.ir .statusWrite) → s.cmd = .reporting st k rs →
        t.mpa.port =
          some (.orphan .statusWrite
            (.write (s.pageBase + 0x800 + 64 * s.consumeIndex + 4) (BitVec.ofNat 32 (st.code + 0x80000000)))))
    ∧ (s.mpa.port = some (.ir .consumeWrite) →
        t.mpa.port =
          some (.orphan .consumeWrite (.write (s.pageBase + 0x024) (BitVec.ofNat 32 s.consumeIndex)))))
  ∧ (∀ s : State,
      (s.watchReset = none → s.advanceWatchReset = s)
      ∧ (∀ n, s.watchReset = some n → 1 < n → s.advanceWatchReset = { s with watchReset := some (n - 1) })
      ∧ ∀ n, s.watchReset = some n → n ≤ 1 → ∃ t : State, s.advanceWatchReset = t.issueSync
          ∧ t = { s with watches := t.watches, watchReset := none }
          ∧ ∀ w : Fin 64, t.watch w =
              if (s.watch w).state = .free then s.watch w else { s.watch w with state := .syncing, missed := false })
  ∧ ∀ (c : Instr) (a : IRAccess) (op : OrphanOp) (s v : State),
      (c, a) ∈ [(Instr.effectGrant, IRAccess.effectRmw), (.faultWordWrite, .faultWrite),
        (.causeWordPublish, .causeWrite), (.vectorWordPublish, .vectorWrite), (.warmResetCauseWrite, .resetWrite),
        (.noticeElementWrite, .elementWrite), (.commandFetchRead, .fetchRead), (.resultWordWrite, .resultWrite),
        (.statusWordWrite, .statusWrite), (.consumeIndexWrite, .consumeWrite)] →
      s.mpa.port = some (.orphan a op) → v = { s with mpa := { s.mpa with port := none, previousIR := true } } →
      (op = .read → exec c s = .next (State.react v))
      ∧ (∀ n w, op = .write n w → exec c s = .next (State.react (v.partWrite n w)))
      ∧ ∀ j, op = .effect j →
          (s.permitsEffect j.record.addr = false → exec c s = .next (State.react v))
          ∧ (s.permitsEffect j.record.addr = true →
              exec c s =
                .next (State.react
                  (State.pushStream
                    { v with mem := writeWord s.mem j.record.addr (j.newWord (readWord s.mem j.record.addr)) }
                    (.write
                      { addr := j.record.addr, lanes := Lanes.all,
                        data := j.newWord (readWord s.mem j.record.addr), writer := .effect, depth := j.depth,
                        atPowerOn := false }))))

/-! ### Master accesses -/

/-- R146, R147: an access presented at an empty port stands there until its grant; a master with an access outstanding
presents no other (DESIGN CHOICE, log 24). -/
def Obligations.MasterRequestStandsAtItsPort : Prop :=
  (∀ (m : Master) (a : Access) (s : State), (s.port m).access = none →
    exec (.masterRequest m a) s
      = .next (State.react (s.setPort m { access := some a, data := (s.port m).data })))
  ∧ ∀ (m : Master) (a : Access) (s : State), (s.port m).access ≠ none → exec (.masterRequest m a) s = .next s

/-- R135, R137, R138, R139, R140, R141, R150: a permitted read is answered with memory's bytes in the lanes read; a scanner
read of an unrevealed tile of a fogged region with those of the fog word. A scanner read is decided once the fog unit has
taken every write before it (DEDUCED, log 6); the lanes that are not read return 0 (DESIGN CHOICE, log 13). Nothing but the
port and the arbiter's state changes. -/
def Obligations.PermittedReadsReturnMemoryOrFog : Prop :=
  ∀ (s : State) (m : Master) (a : Access), s.servesPermitted m a → a.dir = .read →
    (m = .scan → s.nextFor .fog ≠ none → exec .masterRead s = .next s)
    ∧ ((m = .scan → s.nextFor .fog = none) → ∃ word : Word,
        exec .masterRead s =
          .next (State.react
            { s.setPort m { access := none, data := onLanes (lanesOf a) word } with
              mpa := { s.mpa with port := none, lastMaster := m, previousIR := false } })
        ∧ (m = .proc → word = readWord s.mem (wordAddrOf a))
        ∧ (s.governing (wordAddrOf a) = none → word = readWord s.mem (wordAddrOf a))
        ∧ ∀ r, s.governing (wordAddrOf a) = some r →
            (r.fog = false → word = readWord s.mem (wordAddrOf a))
            ∧ ∀ n, n = r.firstTile + (wordAddrOf a - r.base) / r.stride.bytes → n < 128 →
                ((s.reveal[Fin.ofNat 4 (n / 32)]).getLsbD (n % 32) = true →
                  word = readWord s.mem (wordAddrOf a))
                ∧ (m = .scan → r.fog = true → (s.reveal[Fin.ofNat 4 (n / 32)]).getLsbD (n % 32) = false →
                  word = r.fogWord))

/-- R155, R156: a refused access is answered without a transfer, a read with zero; the fault record takes it, and ACCESS is
raised. Nothing else changes. -/
def Obligations.RefusedAccessesRaiseAccess : Prop :=
  ∀ (s : State) (m : Master) (a : Access),
    s.mpa.port = some (.master m) → (s.port m).access = some a → s.permits m a = false →
    ∃ u : State,
      u = { s with
            fault := { writer := masterWriter m, dir := a.dir, addr := BitVec.ofNat 24 (wordAddrOf a) }
            cause :=
              { s.cause with
                arrivals := s.cause.arrivals ||| (causeAccess &&& ~~~s.cause.working) }
            mpa := { s.mpa with port := none, lastMaster := m, previousIR := false } }
      ∧ (a.dir = .read → exec .masterRead s = .next (State.react (u.setPort m { access := none, data := 0 })))
      ∧ (a.dir = .write →
          exec .masterWrite s
            = .next (State.react (u.setPort m { access := none, data := (s.port m).data })))

/-- R146, R150, R151, R164: the control-page unit intercepts a permitted processor write to five words: it clears at the
cause word, and drops at the vector word, the command consume index, the notice produce index and the fault word; every write
to another word, and every scanner write, passes. A write that passes is stored in the lanes that its size and address
select, and enters the snoop stream with its master as the writer. -/
def Obligations.PermittedWritesStoreTheirLanes : Prop :=
  (∀ (s : State) (n : Nat),
    s.interception .scan n = .passes
    ∧ (s.interception .proc n = .clears ↔ n = s.pageBase)
    ∧ (s.interception .proc n = .dropped ↔
        n = s.pageBase + 0x008 ∨ n = s.pageBase + 0x024 ∨ n = s.pageBase + 0x028 ∨ n = s.pageBase + 0x030)
    ∧ (s.interception .proc n = .passes ↔
        n ≠ s.pageBase ∧ n ≠ s.pageBase + 0x008 ∧ n ≠ s.pageBase + 0x024 ∧ n ≠ s.pageBase + 0x028
          ∧ n ≠ s.pageBase + 0x030))
  ∧ (∀ a : Access,
    wordAddrOf a + a.addr.toNat % 4 = a.addr.toNat
    ∧ ∀ i, i < 4 →
        (a.size = .byte → ((lanesOf a).has i = true ↔ i = a.addr.toNat % 4))
        ∧ (a.size = .halfword → a.addr.toNat % 2 = 0 →
            ((lanesOf a).has i = true ↔ i = a.addr.toNat % 4 ∨ i = a.addr.toNat % 4 + 1))
        ∧ (a.size = .word → a.addr.toNat % 4 = 0 → (lanesOf a).has i = true))
  ∧ ∀ (s : State) (m : Master) (a : Access), s.servesPermitted m a → a.dir = .write →
    (m = .scan
      ∨ (wordAddrOf a ≠ s.pageBase ∧ wordAddrOf a ≠ s.pageBase + 0x008 ∧ wordAddrOf a ≠ s.pageBase + 0x024
        ∧ wordAddrOf a ≠ s.pageBase + 0x028 ∧ wordAddrOf a ≠ s.pageBase + 0x030)) →
    exec .masterWrite s =
      .next (State.react
        (State.endMasterGrant
          (State.pushStream { s with mem := writeLanes s.mem (wordAddrOf a) (lanesOf a) a.data }
            (.write
              { addr := wordAddrOf a, lanes := lanesOf a, data := onLanes (lanesOf a) a.data,
                writer := masterWriter m, depth := 0, atPowerOn := false }))
          m (s.port m).data))

/-- R164, R170: a permitted processor write to the cause word clears the causes of its 1-bits in the written lanes from the
working set and from the arrivals, and the cause word is written in all four lanes with the working set that remains; the
write enters the stream with writer PROC. -/
def Obligations.CauseWordWriteClearsItsOnes : Prop :=
  ∀ (s : State) (a : Access) (clear : CauseSet), s.servesPermitted .proc a → a.dir = .write →
    wordAddrOf a = s.pageBase → clear = (onLanes (lanesOf a) a.data).setWidth 15 →
    exec .causeWordClear s =
      .next (State.react
        (State.endMasterGrant
          (State.pushStream
            { s with
              cause :=
                { s.cause with
                  working := s.cause.working &&& ~~~clear, arrivals := s.cause.arrivals &&& ~~~clear }
              mem := writeWord s.mem s.pageBase ((s.cause.working &&& ~~~clear).setWidth 32) }
            (.write
              { addr := s.pageBase, lanes := Lanes.all, data := (s.cause.working &&& ~~~clear).setWidth 32,
                writer := .proc, depth := 0, atPowerOn := false }))
          .proc s.procPort.data))

/-- R165: a permitted processor write to the vector word, the command consume index, the notice produce index or the fault
word completes at the port, counts in the arbiter's alternation as a processor grant, and changes nothing else: neither
memory, nor the stream, nor a cause, nor the fault record. -/
def Obligations.WritesToPartOwnedWordsAreDropped : Prop :=
  ∀ (s : State) (a : Access), s.servesPermitted .proc a → a.dir = .write →
    (wordAddrOf a = s.pageBase + 0x008 ∨ wordAddrOf a = s.pageBase + 0x024 ∨ wordAddrOf a = s.pageBase + 0x028
      ∨ wordAddrOf a = s.pageBase + 0x030) →
    exec .droppedControlWrite s =
      .next (State.react
        { s with
          procPort := { access := none, data := s.procPort.data }
          mpa := { s.mpa with port := none, lastMaster := .proc, previousIR := false } })

/-- R98, R153, R154: installed memory and the control page by the straps; the first case that applies decides an access's
rights, for the masters and for an effect; the highest-numbered enabled entry that contains the address governs, and a
master's access needs its right for that master and direction: PROC read, PROC write, SCAN read or SCAN write. -/
def Obligations.RightsAreDecidedByTheFirstCase : Prop :=
  (∀ r : Rights,
    r.forMaster .proc .read = r.procRead ∧ r.forMaster .proc .write = r.procWrite
    ∧ r.forMaster .scan .read = r.scanRead ∧ r.forMaster .scan .write = r.scanWrite)
  ∧ (∀ s : State,
    s.installed = (if s.msz256 = true then 0x40000 else 0x20000)
    ∧ (s.cpselHigh = false → s.pageBase = 0)
    ∧ (s.cpselHigh = true → s.msz256 = false → s.pageBase = 0x1F000)
    ∧ (s.cpselHigh = true → s.msz256 = true → s.pageBase = 0x3F000)
    ∧ ∀ a : Nat,
        (s.inPage a = true ↔ s.pageBase ≤ a ∧ a ≤ s.pageBase + 0xFFF)
        ∧ (s.isRevealWord a = true ↔ s.pageBase + 0x010 ≤ a ∧ a < s.pageBase + 0x020))
  ∧ (∀ (s : State) (m : Master) (a : Access),
    ((s.installed ≤ a.addr.toNat ∨ (a.size = .halfword ∧ a.addr.toNat % 2 ≠ 0)
        ∨ (a.size = .word ∧ a.addr.toNat % 4 ≠ 0)) → s.permits m a = false)
    ∧ (a.addr.toNat < s.installed → (a.size = .halfword → a.addr.toNat % 2 = 0) →
        (a.size = .word → a.addr.toNat % 4 = 0) →
        (s.inPage (wordAddrOf a) = true → s.permits m a = decide (m = .proc))
        ∧ (s.inPage (wordAddrOf a) = false →
            (s.governing (wordAddrOf a) = none → s.permits m a = true)
            ∧ ∀ r, s.governing (wordAddrOf a) = some r → s.permits m a = r.rights.forMaster m a.dir)))
  ∧ (∀ (s : State) (a : Nat),
      (s.installed ≤ a → s.permitsEffect a = false)
      ∧ (a < s.installed →
          ((a = s.pageBase + 0x00C ∨ (s.pageBase + 0x010 ≤ a ∧ a < s.pageBase + 0x020)) →
            s.permitsEffect a = true)
          ∧ (s.inPage a = true → a ≠ s.pageBase + 0x00C →
              ¬(s.pageBase + 0x010 ≤ a ∧ a < s.pageBase + 0x020) → s.permitsEffect a = false)
          ∧ (s.inPage a = false →
              (s.governing a = none → s.permitsEffect a = true)
              ∧ ∀ r, s.governing a = some r → s.permitsEffect a = r.rights.effectWrite)))
  ∧ ∀ (s : State) (a : Nat),
      (s.governing a = none ↔
        ∀ n : Fin 16, ¬((s.region n).enabled = true ∧ (s.region n).base ≤ a ∧ a < (s.region n).limit))
      ∧ ∀ r, s.governing a = some r →
          ∃ n : Fin 16, r = s.region n ∧ (s.region n).enabled = true ∧ (s.region n).base ≤ a
            ∧ a < (s.region n).limit
            ∧ ∀ k : Fin 16, n < k →
                ¬((s.region k).enabled = true ∧ (s.region k).base ≤ a ∧ a < (s.region k).limit)

/-! ### Taking the snoop stream -/

/-- R3 to R11, R15: the ten comparisons of a watch, both values at the field's width, and CHANGED, whose truth is FALSE; the
filter, which never accepts PART; when a write touches a field, and the shadow after it, bit by bit. The watch unit takes the
next write whole. An ARMED watch on the written word whose field the written
lanes touch has its shadow's bits in those lanes replaced and its truth computed anew; every other watch is as it was. A
watch fires when the writer is in its filter and its truth turns TRUE, or, for CHANGED, its shadow changes. The watches that
fire offer their triggers in ascending watch number: the lower-numbered take the room that is left in the queue, the others
have their missed flags set and TRIGGER_LOST raised; at depth 8 none is offered, every missed flag is set and CASCADE raised.
Memory, the quests, the timers, the pools and the copies are unchanged. A warm reset that the watch unit has yet to take
comes one item nearer (DESIGN CHOICE, log 32; `State.advanceWatchReset` is stated with the warm reset). -/
def Obligations.WatchesObserveTheTakenWrite : Prop :=
  (∀ (width : Nat) (shadow operand : Word) (x y : Int), 1 ≤ width →
    x = (if shadow.toNat < 2 ^ (width - 1) then (shadow.toNat : Int) else (shadow.toNat : Int) - 2 ^ width) →
    y = (if operand.toNat < 2 ^ (width - 1) then (operand.toNat : Int) else (operand.toNat : Int) - 2 ^ width) →
    (truthOf .equal width shadow operand = true ↔ shadow = operand)
    ∧ (truthOf .unequal width shadow operand = true ↔ shadow ≠ operand)
    ∧ (truthOf .below width shadow operand = true ↔ shadow.toNat < operand.toNat)
    ∧ (truthOf .atLeast width shadow operand = true ↔ shadow.toNat ≥ operand.toNat)
    ∧ (truthOf .above width shadow operand = true ↔ shadow.toNat > operand.toNat)
    ∧ (truthOf .atMost width shadow operand = true ↔ shadow.toNat ≤ operand.toNat)
    ∧ (truthOf .less width shadow operand = true ↔ x < y)
    ∧ (truthOf .notLess width shadow operand = true ↔ x ≥ y)
    ∧ (truthOf .greater width shadow operand = true ↔ x > y)
    ∧ (truthOf .notGreater width shadow operand = true ↔ x ≤ y)
    ∧ truthOf .changed width shadow operand = false)
  ∧ (∀ f : WriterFilter,
    f.accepts .proc = f.proc ∧ f.accepts .scan = f.scan ∧ f.accepts .effect = f.effect ∧ f.accepts .part = false)
  ∧ (∀ (l : Lanes) (low width : Nat), 1 ≤ width → low + width ≤ 32 →
    (touchesField l low width = true ↔
      ∃ i, i < 4 ∧ l.has i = true ∧ low < 8 * i + 8 ∧ 8 * i < low + width)
    ∧ ∀ (data shadow : Word) (i : Nat), i < 32 →
        (shadowAfter low width l data shadow).getLsbD i =
          (decide (i < width)
            && if l.has ((low + i) / 8) = true then data.getLsbD (low + i) else shadow.getLsbD i))
  ∧ (∀ (x : Watch) (e : SnoopWrite),
    x.firesAt e = true ↔
      x.filter.accepts e.writer = true
      ∧ (x.condition = .changed → shadowAfter x.lowBit x.width e.lanes e.data x.shadow ≠ x.shadow)
      ∧ (x.condition ≠ .changed →
          x.truth = false
          ∧ truthOf x.condition x.width (shadowAfter x.lowBit x.width e.lanes e.data x.shadow) x.operand = true))
  ∧ ∀ (s : State) (e : SnoopWrite), s.nextFor .watch = some (.write e) →
    ∃ t : State, exec .watchTakeWrite s = .next (State.react t.advanceWatchReset)
      ∧ (∀ w : Fin 64,
          ¬((s.watch w).state = .armed ∧ (s.watch w).addr = e.addr
              ∧ touchesField e.lanes (s.watch w).lowBit (s.watch w).width = true) →
          t.watch w = s.watch w)
      ∧ (∀ w : Fin 64, (s.watch w).state = .armed → (s.watch w).addr = e.addr →
          touchesField e.lanes (s.watch w).lowBit (s.watch w).width = true →
          ∃ (shadow : Word) (missed : Bool),
            shadow =
                extractField (mergeLanes e.lanes ((s.watch w).shadow <<< (s.watch w).lowBit) e.data)
                  (s.watch w).lowBit (s.watch w).width
            ∧ t.watch w =
                { s.watch w with
                  shadow := shadow
                  truth := truthOf (s.watch w).condition (s.watch w).width shadow (s.watch w).operand
                  missed := missed }
            ∧ ((s.watch w).firesAt e = false → missed = (s.watch w).missed)
            ∧ ((s.watch w).missed = true → missed = true))
      ∧ (∀ (fired : List (Fin 64)) (room depth : Nat), fired.Pairwise (fun v w => v < w) →
          (∀ w : Fin 64, w ∈ fired ↔ (s.watch w).state = .armed ∧ (s.watch w).addr = e.addr
            ∧ touchesField e.lanes (s.watch w).lowBit (s.watch w).width = true ∧ (s.watch w).firesAt e = true) →
          room = 16 - s.queue.countP Trigger.isWatch → depth = (if e.writer = .effect then e.depth + 1 else 0) →
          (depth < 8 →
            t.queue = s.queue ++ (fired.take room).map (fun w => .watch w e.writer depth)
            ∧ (∀ w ∈ fired.take room, (t.watch w).missed = (s.watch w).missed)
            ∧ (∀ w ∈ fired.drop room, (t.watch w).missed = true)
            ∧ (room < fired.length → causeTriggerLost &&& ~~~(t.cause.arrivals ||| t.cause.working) = 0)
            ∧ (fired.length ≤ room → t.cause.arrivals &&& causeTriggerLost = s.cause.arrivals &&& causeTriggerLost))
          ∧ (8 ≤ depth →
              t.queue = s.queue
              ∧ (∀ w ∈ fired, (t.watch w).missed = true)
              ∧ (fired ≠ [] → causeCascade &&& ~~~(t.cause.arrivals ||| t.cause.working) = 0)))
      ∧ t.cause.working = s.cause.working
      ∧ t.mem = s.mem ∧ t.quests = s.quests ∧ t.timers = s.timers ∧ t.steps = s.steps ∧ t.effects = s.effects
      ∧ t.page = s.page ∧ t.reveal = s.reveal ∧ t.watchReset = s.watchReset ∧ t.stream = (s.takeFor .watch).stream

/-- R7 to R12: a write that fires one watch. The firing's depth is 0 for a master's write and one more than the write's for
an effect's. With a depth of 8 or more CASCADE is raised and the watch's missed flag set; otherwise, with fewer than 16
WATCH entries standing, its trigger joins the tail of the queue; otherwise TRIGGER_LOST is raised and the missed flag set.
A watch with its notify flag set hands over WATCH_FIRED, with the offer's outcome and both shadows, in every case. (A warm
reset that the watch unit has yet to take then comes one item nearer: log 32, DESIGN CHOICE.) -/
def Obligations.FiringOffersItsTrigger : Prop :=
  ∀ (s : State) (e : SnoopWrite) (w : Fin 64) (shadow : Word) (depth : Nat) (u : State),
    s.nextFor .watch = some (.write e) →
    (s.watch w).sees e = true → (s.watch w).firesAt e = true →
    (∀ v : Fin 64, v ≠ w → (s.watch v).sees e = false) →
    shadow = shadowAfter (s.watch w).lowBit (s.watch w).width e.lanes e.data (s.watch w).shadow →
    depth = (if e.writer = .effect then e.depth + 1 else 0) →
    u = (s.takeFor .watch).updWatch w (fun x =>
          { x with shadow := shadow, truth := truthOf x.condition x.width shadow x.operand }) →
    ∃ (o : Offer) (v : State),
      ((8 ≤ depth ∧ o = .depth
          ∧ v = (u.raise causeCascade).updWatch w (fun x => { x with missed := true }))
        ∨ (depth < 8 ∧ s.queue.countP Trigger.isWatch < 16 ∧ o = .queued
          ∧ v = { u with queue := u.queue ++ [.watch w e.writer depth] })
        ∨ (depth < 8 ∧ 16 ≤ s.queue.countP Trigger.isWatch ∧ o = .lost
          ∧ v = (u.raise causeTriggerLost).updWatch w (fun x => { x with missed := true })))
      ∧ ((s.watch w).notify = false → exec .watchTakeWrite s = .next (State.react v.advanceWatchReset))
      ∧ ((s.watch w).notify = true →
          exec .watchTakeWrite s =
            .next (State.react
              (State.advanceWatchReset (v.handNotice
                { kind := .watchFired, number := w.val, step := none, owner := none, tag := 0, statuses := [],
                  ended := none, reason := none, timer := none, offer := some o, old := (s.watch w).shadow,
                  new := shadow, source := .watch w e.writer depth, turn := 0, parent := none, child := none,
                  depth := 0 }))))

/-- R140: the fog unit takes its next write of a reveal word: the reveal copy's word takes the written lanes and keeps the
others. R166: the enable copy takes the written lanes, and a change of bits 0 to 14 is handed to the cause unit. -/
def Obligations.RevealAndEnableCopiesTakeWrittenLanes : Prop :=
  (∀ (s : State) (e : SnoopWrite) (i : Fin 4), s.nextFor .fog = some (.write e) →
    e.addr = s.pageBase + 0x010 + 4 * i.val →
    exec .revealCopyUpdate s =
      .next (State.react
        { s.takeFor .fog with reveal := s.reveal.set i.val (mergeLanes e.lanes s.reveal[i] e.data) i.isLt }))
  ∧ ∀ (s : State) (e : SnoopWrite) (copy : Word), s.nextFor .page = some (.write e) →
      e.addr = s.pageBase + 0x004 → copy = mergeLanes e.lanes s.page.enable e.data →
      exec .enableWordTaken s =
        .next (State.react
          { s.takeFor .page with
            page := { s.page with enable := copy }
            cause :=
              { s.cause with
                handed :=
                  if (copy.setWidth 15 : CauseSet) = s.page.enable.setWidth 15 then s.cause.handed
                  else copy.setWidth 15 } })

/-- R118, R119, R167: the turn copy takes the written lanes. A write that leaves the player field as it was changes nothing
else; one that changes it lowers by one the count of every RUNNING timer whose clock is TURN (expiries that are under way
are done first, log 9). -/
def Obligations.TurnWordAdvancesTurnTimers : Prop :=
  ∀ (s : State) (e : SnoopWrite) (copy : Word), s.nextFor .page = some (.write e) →
    e.addr = s.pageBase + 0x00C → copy = mergeLanes e.lanes s.page.turn e.data →
    (copy.toNat % 16 = s.page.turn.toNat % 16 →
      exec .turnWordTaken s =
        .next (State.react { s.takeFor .page with page := { s.page with turn := copy } }))
    ∧ (copy.toNat % 16 ≠ s.page.turn.toNat % 16 → SettledTimers s →
        ∃ t, exec .turnWordTaken s = .next t
          ∧ (∀ k : Fin 8, t.timer k =
              if (s.timer k).state = .running ∧ (s.timer k).clock = .turn then
                { s.timer k with count := (s.timer k).count - 1 }
              else s.timer k)
          ∧ t.page = { s.page with turn := copy }
          ∧ t.queue = s.queue ∧ t.quests = s.quests ∧ t.mem = s.mem ∧ t.beatOut = s.beatOut
          ∧ t.cause.arrivals = s.cause.arrivals ∧ t.stream = (s.takeFor .page).stream)

/-- R168, R175, R176, R190: a write of a host index word updates its image, and its owner decides on the whole value: a
produce value below 32 is accepted, and an IDLE command unit starts to fetch when it differs from the consume index; a
consume value below the size of a set ring is accepted, and the ring examined; any other value raises RING_FAULT and
changes no copy. The zero writes of power-on reset hand no value on (R168). -/
def Obligations.HostIndexesAreAcceptedOrRefused : Prop :=
  (∀ (s : State) (e : SnoopWrite) (image : Word) (u : State), s.nextFor .page = some (.write e) →
    e.addr = s.pageBase + 0x020 → image = mergeLanes e.lanes s.page.produceImage e.data →
    u = { s.takeFor .page with page := { s.page with produceImage := image } } →
    (e.atPowerOn = true → exec .commandProduceIndex s = .next (State.react u))
    ∧ (e.atPowerOn = false → 32 ≤ image.toNat →
        exec .commandProduceIndex s = .next (State.react (u.raise causeRingFault)))
    ∧ (e.atPowerOn = false → image.toNat < 32 →
        (s.cmd ≠ .idle ∨ image.toNat = s.consumeIndex →
          exec .commandProduceIndex s =
            .next (State.react { u with page := { u.page with produce := image.toNat } }))
        ∧ (s.cmd = .idle → image.toNat ≠ s.consumeIndex →
            exec .commandProduceIndex s =
              .next (State.react
                { u with page := { u.page with produce := image.toNat }, cmd := .fetching [] }))))
  ∧ ∀ (s : State) (e : SnoopWrite) (image : Word) (u : State), s.nextFor .page = some (.write e) →
      e.addr = s.pageBase + 0x02C → image = mergeLanes e.lanes s.page.consumeImage e.data →
      u = { s.takeFor .page with page := { s.page with consumeImage := image } } →
      (e.atPowerOn = true → exec .noticeConsumeIndex s = .next (State.react u))
      ∧ (e.atPowerOn = false → (s.notice.ringSet = false ∨ s.notice.size ≤ image.toNat) →
          exec .noticeConsumeIndex s = .next (State.react (u.raise causeRingFault)))
      ∧ (e.atPowerOn = false → s.notice.ringSet = true → image.toNat < s.notice.size →
          exec .noticeConsumeIndex s =
            .next (State.react
              (State.examineRing { u with page := { u.page with consume := image.toNat } })))

/-! ### Timers -/

/-- R117, R119: a beat lowers by one the count of every RUNNING timer whose clock is BEAT, and changes nothing else (the
expiries of those that reach 0 are the next steps, DEDUCED, log 9); while GAME_RESET is asserted it changes nothing. -/
def Obligations.BeatLowersRunningBeatTimers : Prop :=
  (∀ s : State, s.gameReset = false → SettledTimers s →
    ∃ t : State, exec .beat s = .next (State.react t)
      ∧ t = { s with timers := t.timers }
      ∧ ∀ k : Fin 8, t.timer k =
          if (s.timer k).state = .running ∧ (s.timer k).clock = .beat then
            { s.timer k with count := (s.timer k).count - 1 }
          else s.timer k)
  ∧ ∀ s : State, s.gameReset = true → exec .beat s = .next s

/-- R60, R119, R120, R121, R122: the lowest-numbered expiry under way: TIMERn is raised; with a binder or the trigger route
the expiry is offered to the queue, where it joins the tail or gives its binder to the timer's standing entry; T0 inverts
BEAT_OUT; a ONE_SHOT timer stops at 0 and a PERIODIC timer loads its reload, or stops when it is unset. With none under
way nothing changes (DESIGN CHOICE, log 1). R119, R131: the timer unit takes each event whole, so the expiries under way
are done before a timer command is taken (log 9): the lowest-numbered one first, then those left after it, until none is
under way. -/
def Obligations.ExpiryRaisesOffersAndReloads : Prop :=
  (∀ x : Timer, x.expiryDue = true ↔ x.state = .running ∧ x.count = 0)
  ∧ (∀ (s : State) (k : Fin 8), (s.timer k).state = .running → (s.timer k).count = 0 →
    (∀ j : Fin 8, j < k → (s.timer j).expiryDue = false) →
    ∃ t : State, exec .timerExpiry s = .next (State.react t)
      ∧ t = s.expire k
      ∧ s.settleTimers = t.settleTimers
      ∧ t = { s with
              cause := { s.cause with arrivals := s.cause.arrivals ||| (causeTimer k &&& ~~~s.cause.working) }
              queue := t.queue, beatOut := t.beatOut, timers := t.timers }
      ∧ ((s.timer k).binder = none → (s.timer k).route = false → t.queue = s.queue)
      ∧ (((s.timer k).binder ≠ none ∨ (s.timer k).route = true) →
          (s.queue.countP (Trigger.isExpiryOf k) = 0 →
            t.queue = s.queue ++ [.expiry k (s.timer k).binder])
          ∧ (s.queue.countP (Trigger.isExpiryOf k) ≠ 0 →
              t.queue = s.queue.map (fun e =>
                if e.isExpiryOf k = true then .expiry k (s.timer k).binder else e)))
      ∧ t.beatOut = (if k = 0 then !s.beatOut else s.beatOut)
      ∧ (∀ j : Fin 8, j ≠ k → t.timer j = s.timer j)
      ∧ t.timer k =
          (if (s.timer k).mode = .periodic ∧ (s.timer k).reload ≠ 0 then
            { s.timer k with count := (s.timer k).reload }
          else { s.timer k with state := .stopped, count := 0 }))
  ∧ (∀ s : State, SettledTimers s → exec .timerExpiry s = .next s)
  ∧ ∀ (s : State),
    SettledTimers s.settleTimers
    ∧ (SettledTimers s → s.settleTimers = s)
    ∧ ∀ c ∈ [Instr.setTimer, .presetTimer, .runTimer, .stopTimer, .readTimer],
        (∃ words, s.cmd = .dispatched words false
          ∧ [(Instr.setTimer, 0x30), (.presetTimer, 0x31), (.runTimer, 0x32), (.stopTimer, 0x33),
              (.readTimer, 0x34)].contains (c, codeOf words) = true) →
        exec c s = exec c s.settleTimers

/-- R126: SET TIMER, code 0x30, length 16, checks its number, its clock, mode and reload, and the binder, in this order; it
writes the setting, a STOPPED timer's count being loaded from the reload and a RUNNING timer keeping its count. R130: READ
TIMER, code 0x34, length 12, changes no field and reports the record's two words. The premise says that no expiry is under
way; `Obligations.ExpiryRaisesOffersAndReloads` says what a timer command does where one is. A clock is 0 BEAT or 1 TURN, a
mode 0 ONE_SHOT or 1 PERIODIC, a state 0 STOPPED or 1 RUNNING. -/
def Obligations.SetAndReadTimer : Prop :=
  requiredLength 0x30 = some (.fixed 16)
  ∧ requiredLength 0x34 = some (.fixed 12)
  ∧ Clock.beat.code = 0 ∧ Clock.turn.code = 1 ∧ TimerMode.oneShot.code = 0 ∧ TimerMode.periodic.code = 1
  ∧ TimerState.stopped.code = 0 ∧ TimerState.running.code = 1
  ∧ (∀ (s : State) (words : List Word), s.hands 0x30 words → SettledTimers s →
    (7 < bits (wordAt words 2) 0 8 →
      exec .setTimer s = .next (State.react { s with cmd := .reporting .outOfRange 3 [] }))
    ∧ ∀ k : Fin 8, bits (wordAt words 2) 0 8 = k.val →
        ((2 ≤ bits (wordAt words 2) 8 2 ∨ 2 ≤ bits (wordAt words 2) 12 2 ∨ 65535 < (wordAt words 3).toNat) →
          exec .setTimer s = .next (State.react { s with cmd := .reporting .badField 3 [] }))
        ∧ ∀ (clock : Clock) (mode : TimerMode), bits (wordAt words 2) 8 2 = clock.code →
            bits (wordAt words 2) 12 2 = mode.code → (wordAt words 3).toNat ≤ 65535 →
            ((s.timer k).binder ≠ none →
              exec .setTimer s = .next (State.react { s with cmd := .reporting .inUse 3 [] }))
            ∧ ((s.timer k).binder = none →
                exec .setTimer s =
                  .next (State.react
                    { s.updTimer k (fun x =>
                        { x with
                          clock := clock, mode := mode, route := bit (wordAt words 2) 16
                          reload := BitVec.ofNat 16 (wordAt words 3).toNat
                          count :=
                            if x.state = .stopped then BitVec.ofNat 16 (wordAt words 3).toNat else x.count }) with
                      cmd := .reporting .ok 3 [] })))
  ∧ ∀ (s : State) (words : List Word), s.hands 0x34 words → SettledTimers s →
      (7 < bits (wordAt words 2) 0 8 →
        exec .readTimer s = .next (State.react { s with cmd := .reporting .outOfRange 3 [] }))
      ∧ ∀ k : Fin 8, bits (wordAt words 2) 0 8 = k.val →
          exec .readTimer s =
            .next (State.react
              { s with
                cmd :=
                  .reporting .ok 3
                    [ BitVec.ofNat 32 ((s.timer k).reload.toNat + 0x10000 * (s.timer k).count.toNat),
                      BitVec.ofNat 32
                        ((s.timer k).state.code + 2 * (s.timer k).clock.code + 4 * (s.timer k).mode.code
                          + (if (s.timer k).route = true then 8 else 0)
                          + (if k = 0 ∧ s.beatOut = true then 16 else 0)
                          + 256 * (match (s.timer k).binder with | some q => q.val | none => 0xFF)) ] })

/-- R127: PRESET TIMER, code 0x31, length 12: the checks in their order; a command that passes loads the count from the
reload and leaves the state and everything else as it was. R128: RUN TIMER, code 0x32, length 12: a STOPPED timer runs on
from its count, or from its reload where its count is 0; a RUNNING timer is as it was. R129: STOP TIMER, code 0x33, length
12: the timer is STOPPED with its count kept; the queue, the causes and BEAT_OUT are as they were. The premise says that no
expiry is under way; `Obligations.ExpiryRaisesOffersAndReloads` says what a timer command does where one is. -/
def Obligations.PresetRunAndStopTimer : Prop :=
  requiredLength 0x31 = some (.fixed 12)
  ∧ (∀ (s : State) (words : List Word), s.hands 0x31 words → SettledTimers s →
    (7 < bits (wordAt words 2) 0 8 →
      exec .presetTimer s = .next (State.react { s with cmd := .reporting .outOfRange 3 [] }))
    ∧ ∀ k : Fin 8, bits (wordAt words 2) 0 8 = k.val →
        ((s.timer k).binder ≠ none →
          exec .presetTimer s = .next (State.react { s with cmd := .reporting .inUse 3 [] }))
        ∧ ((s.timer k).binder = none → (s.timer k).reload = 0 →
            exec .presetTimer s = .next (State.react { s with cmd := .reporting .notDefined 3 [] }))
        ∧ ((s.timer k).binder = none → (s.timer k).reload ≠ 0 →
            exec .presetTimer s =
              .next (State.react
                { s.updTimer k (fun x => { x with count := x.reload }) with cmd := .reporting .ok 3 [] })))
  ∧ requiredLength 0x32 = some (.fixed 12)
  ∧ (∀ (s : State) (words : List Word), s.hands 0x32 words → SettledTimers s →
    (7 < bits (wordAt words 2) 0 8 →
      exec .runTimer s = .next (State.react { s with cmd := .reporting .outOfRange 3 [] }))
    ∧ ∀ k : Fin 8, bits (wordAt words 2) 0 8 = k.val →
        ((s.timer k).binder ≠ none →
          exec .runTimer s = .next (State.react { s with cmd := .reporting .inUse 3 [] }))
        ∧ ((s.timer k).binder = none → (s.timer k).reload = 0 →
            exec .runTimer s = .next (State.react { s with cmd := .reporting .notDefined 3 [] }))
        ∧ ((s.timer k).binder = none → (s.timer k).reload ≠ 0 →
            ((s.timer k).state = .running →
              exec .runTimer s = .next (State.react { s with cmd := .reporting .ok 3 [] }))
            ∧ ((s.timer k).state = .stopped →
                exec .runTimer s =
                  .next (State.react
                    { s.updTimer k (fun x =>
                        { x with state := .running, count := if x.count = 0 then x.reload else x.count }) with
                      cmd := .reporting .ok 3 [] }))))
  ∧ requiredLength 0x33 = some (.fixed 12)
  ∧ (∀ (s : State) (words : List Word), s.hands 0x33 words → SettledTimers s →
    (7 < bits (wordAt words 2) 0 8 →
      exec .stopTimer s = .next (State.react { s with cmd := .reporting .outOfRange 3 [] }))
    ∧ ∀ k : Fin 8, bits (wordAt words 2) 0 8 = k.val →
        ((s.timer k).binder ≠ none →
          exec .stopTimer s = .next (State.react { s with cmd := .reporting .inUse 3 [] }))
        ∧ ((s.timer k).binder = none →
            ((s.timer k).state = .stopped →
              exec .stopTimer s = .next (State.react { s with cmd := .reporting .ok 3 [] }))
            ∧ ((s.timer k).state = .running →
                exec .stopTimer s =
                  .next (State.react
                    { s.updTimer k (fun x => { x with state := .stopped }) with
                      cmd := .reporting .ok 3 [] }))))

/-! ### Watches -/

/-- R13, R14, R16: the grant of the synchronising read ends: its completion enters the stream with the word that memory
holds, behind the writes that completed before it. The watch unit takes the completion in its place: the SYNCING watch is
ARMED with the field of the word and its truth, the ARM or RESYNC command that waits for it is answered OK, and the next
read is asked for; a watch with fire-on-arm set whose truth is TRUE fires. The completion of a read that its watch has given
up is discarded. The row's two moments are log 8 (DEDUCED); the discard of a read given up, even where its watch is SYNCING
again, is log 28 (DEDUCED); no read is asked for while the watch unit has yet to take a warm reset, which comes one item
nearer (DESIGN CHOICE, log 32). The command that waits for a watch is an ARM WATCH, ARM BIT WATCH or RESYNC WATCH that the
watch unit has taken and whose word 2 names the watch (R18, R20). -/
def Obligations.SynchronisingReadArmsTheWatch : Prop :=
  (∀ (s : State) (w : Fin 64),
    s.armCommandWaits w = true ↔
      ∃ words, s.cmd = .dispatched words true
        ∧ (codeOf words = 0x10 ∨ codeOf words = 0x11 ∨ codeOf words = 0x13)
        ∧ bits (wordAt words 2) 0 8 = w.val)
  ∧ (∀ (s : State) (r : SyncRead), s.syncRead = some r → s.mpa.port = some (.ir .syncRead) →
    exec .syncReadComplete s =
      .next (State.react
        (State.endIRGrant
          (State.pushStream { s with syncRead := some { r with completed := true } }
            (.syncMark (readWord s.mem r.addr))))))
  ∧ (∀ (s : State) (r : SyncRead) (word : Word), s.syncRead = some r → s.mpa.port ≠ some (.ir .syncRead) →
      s.nextFor .watch = some (.syncMark word) →
      ((r.stale = true ∨ (s.watch r.watch).state ≠ .syncing) →
        exec .syncReadComplete s =
          .next (State.react
            (State.advanceWatchReset (State.issueSync { s.takeFor .watch with syncRead := none }))))
      ∧ (r.stale = false → (s.watch r.watch).state = .syncing →
          ∀ (field : Word) (truth : Bool) (u v : State),
            field = extractField word (s.watch r.watch).lowBit (s.watch r.watch).width →
            truth = truthOf (s.watch r.watch).condition (s.watch r.watch).width field
              (s.watch r.watch).operand →
            u = State.updWatch { s.takeFor .watch with syncRead := none } r.watch
                  (fun x => { x with state := .armed, shadow := field, truth := truth }) →
            v = (if (s.watch r.watch).fireOnArm = true ∧ truth = true then
                  u.fireWatch r.watch .part 0 field field
                else u) →
            (s.armCommandWaits r.watch = false →
              exec .syncReadComplete s = .next (State.react v.issueSync.advanceWatchReset))
            ∧ (s.armCommandWaits r.watch = true →
                exec .syncReadComplete s =
                  .next (State.react
                    (State.advanceWatchReset (State.issueSync { v with cmd := .reporting .ok 3 [] }))))))
  ∧ ∀ s : State,
      ((s.syncRead ≠ none ∨ s.watchReset ≠ none) → s.issueSync = s)
      ∧ ((∀ w : Fin 64, (s.watch w).state ≠ .syncing) → s.issueSync = s)
      ∧ ∀ w : Fin 64, s.syncRead = none → s.watchReset = none → (s.watch w).state = .syncing →
          (∀ v : Fin 64, v < w → (s.watch v).state ≠ .syncing) →
          s.issueSync =
            { s with syncRead := some { watch := w, addr := (s.watch w).addr, completed := false, stale := false } }

/-- R17, R18: ARM WATCH checks its fields and then the watch's state; a FREE watch takes the definition, its operand
truncated to the width, and waits SYNCING for its read. R19: ARM BIT WATCH does the same for a bit of a bit string, of width
1. A refused command changes nothing but its answer. The condition codes are 0 EQUAL to 10 CHANGED (12.3). -/
def Obligations.ArmCommandsDefineASyncingWatch : Prop :=
  (∀ n,
    conditionOfCode n =
      ([.equal, .unequal, .below, .atLeast, .above, .atMost, .less, .notLess, .greater, .notGreater, .changed] :
        List Condition)[n]?)
  ∧ (∀ c : Condition, conditionOfCode c.code = some c)
  ∧ requiredLength 0x10 = some (.fixed 24)
  ∧ requiredLength 0x11 = some (.fixed 24)
  ∧ (∀ (s : State) (words : List Word) (addr low width : Nat), s.hands 0x10 words →
    addr = (wordAt words 3).toNat → low = bits (wordAt words 4) 0 8 → width = bits (wordAt words 4) 8 8 →
    (63 < bits (wordAt words 2) 0 8 →
      exec .armWatch s = .next (State.react { s with cmd := .reporting .outOfRange 3 [] }))
    ∧ ∀ w : Fin 64, bits (wordAt words 2) 0 8 = w.val →
        ((10 < bits (wordAt words 2) 8 4 ∨ width = 0 ∨ 32 < width ∨ 31 < low ∨ 32 < low + width
            ∨ bits (wordAt words 2) 16 3 = 0 ∨ addr % 4 ≠ 0 ∨ s.installed ≤ addr
            ∨ (s.inPage addr = true ∧ addr ≠ s.pageBase + 0x00C ∧ s.isRevealWord addr = false)) →
          exec .armWatch s = .next (State.react { s with cmd := .reporting .badField 3 [] }))
        ∧ ∀ c : Condition, bits (wordAt words 2) 8 4 = c.code → 1 ≤ width → low + width ≤ 32 →
            bits (wordAt words 2) 16 3 ≠ 0 → addr % 4 = 0 → addr < s.installed →
            (s.inPage addr = false ∨ addr = s.pageBase + 0x00C ∨ s.isRevealWord addr = true) →
            ((s.watch w).state ≠ .free →
              exec .armWatch s = .next (State.react { s with cmd := .reporting .busy 3 [] }))
            ∧ ((s.watch w).state = .free →
                exec .armWatch s =
                  .next (State.react (State.issueSync
                    { s.updWatch w (fun _ =>
                        { state := .syncing, addr := addr, lowBit := low, width := width, condition := c,
                          operand := BitVec.ofNat 32 ((wordAt words 5).toNat % 2 ^ width),
                          filter := ⟨bit (wordAt words 2) 16, bit (wordAt words 2) 17, bit (wordAt words 2) 18⟩,
                          notify := bit (wordAt words 2) 20, fireOnArm := bit (wordAt words 2) 21, shadow := 0,
                          truth := false, missed := false }) with
                      cmd := .dispatched words true }))))
  ∧ ∀ (s : State) (words : List Word) (base index addr : Nat), s.hands 0x11 words →
      base = (wordAt words 3).toNat → index = bits (wordAt words 4) 0 16 → addr = base + 4 * (index / 32) →
      (63 < bits (wordAt words 2) 0 8 →
        exec .armBitWatch s = .next (State.react { s with cmd := .reporting .outOfRange 3 [] }))
      ∧ ∀ w : Fin 64, bits (wordAt words 2) 0 8 = w.val →
          ((base % 4 ≠ 0 ∨ 4095 < index
              ∨ (bits (wordAt words 2) 8 4 ≠ 0 ∧ bits (wordAt words 2) 8 4 ≠ 1
                  ∧ bits (wordAt words 2) 8 4 ≠ 10)
              ∨ 1 < (wordAt words 5).toNat ∨ bits (wordAt words 2) 16 3 = 0 ∨ s.installed ≤ addr
              ∨ (s.inPage addr = true ∧ addr ≠ s.pageBase + 0x00C ∧ s.isRevealWord addr = false)) →
            exec .armBitWatch s = .next (State.react { s with cmd := .reporting .badField 3 [] }))
          ∧ ∀ c ∈ [Condition.equal, .unequal, .changed], bits (wordAt words 2) 8 4 = c.code →
              base % 4 = 0 → index ≤ 4095 → (wordAt words 5).toNat ≤ 1 → bits (wordAt words 2) 16 3 ≠ 0 →
              addr < s.installed →
              (s.inPage addr = false ∨ addr = s.pageBase + 0x00C ∨ s.isRevealWord addr = true) →
              ((s.watch w).state ≠ .free →
                exec .armBitWatch s = .next (State.react { s with cmd := .reporting .busy 3 [] }))
              ∧ ((s.watch w).state = .free →
                  exec .armBitWatch s =
                    .next (State.react (State.issueSync
                      { s.updWatch w (fun _ =>
                          { state := .syncing, addr := addr, lowBit := index % 32, width := 1, condition := c,
                            operand := wordAt words 5,
                            filter := ⟨bit (wordAt words 2) 16, bit (wordAt words 2) 17, bit (wordAt words 2) 18⟩,
                            notify := bit (wordAt words 2) 20, fireOnArm := bit (wordAt words 2) 21, shadow := 0,
                            truth := false, missed := false }) with
                        cmd := .dispatched words true })))

/-- R20: RESYNC WATCH puts an ARMED watch back to SYNCING, its definition kept, and asks for its read; a FREE watch gives
NOT_DEFINED, a SYNCING one BUSY. R23: READ WATCH reports the entry's five words as it stood and clears the missed flag.
R193: every bit outside the listed fields is 0. A state is 0 FREE, 1 SYNCING or 2 ARMED. -/
def Obligations.ResyncAndReadWatch : Prop :=
  WatchState.free.code = 0 ∧ WatchState.syncing.code = 1 ∧ WatchState.armed.code = 2
  ∧ (∀ (s : State) (words : List Word), s.hands 0x13 words →
    (63 < bits (wordAt words 2) 0 8 →
      exec .resyncWatch s = .next (State.react { s with cmd := .reporting .outOfRange 3 [] }))
    ∧ ∀ w : Fin 64, bits (wordAt words 2) 0 8 = w.val →
        ((s.watch w).state = .free →
          exec .resyncWatch s = .next (State.react { s with cmd := .reporting .notDefined 3 [] }))
        ∧ ((s.watch w).state = .syncing →
            exec .resyncWatch s = .next (State.react { s with cmd := .reporting .busy 3 [] }))
        ∧ ((s.watch w).state = .armed →
            exec .resyncWatch s =
              .next (State.react (State.issueSync
                { s.updWatch w (fun x => { x with state := .syncing }) with cmd := .dispatched words true }))))
  ∧ ∀ (s : State) (words : List Word), s.hands 0x14 words →
      (63 < bits (wordAt words 2) 0 8 →
        exec .readWatch s = .next (State.react { s with cmd := .reporting .outOfRange 3 [] }))
      ∧ ∀ w : Fin 64, bits (wordAt words 2) 0 8 = w.val →
          ∃ w0 : Word,
            exec .readWatch s =
              .next (State.react
                { s.updWatch w (fun x => { x with missed := false }) with
                  cmd :=
                    .reporting .ok 3
                      [ w0, BitVec.ofNat 32 (s.watch w).addr,
                        BitVec.ofNat 32 ((s.watch w).lowBit % 256 + 256 * ((s.watch w).width % 256)),
                        (s.watch w).operand, (s.watch w).shadow ] })
            ∧ bits w0 0 2 = (s.watch w).state.code ∧ bits w0 8 4 = (s.watch w).condition.code
            ∧ bit w0 16 = (s.watch w).filter.proc ∧ bit w0 17 = (s.watch w).filter.scan
            ∧ bit w0 18 = (s.watch w).filter.effect ∧ bit w0 20 = (s.watch w).notify
            ∧ bit w0 21 = (s.watch w).fireOnArm ∧ bit w0 24 = (s.watch w).truth
            ∧ bit w0 25 = (s.watch w).missed
            ∧ bits w0 2 6 = 0 ∧ bits w0 12 4 = 0 ∧ bits w0 19 1 = 0 ∧ bits w0 22 2 = 0 ∧ bits w0 26 6 = 0

/-- R21, R22, R62: DISARM WATCH frees a watch that no running quest names as a trigger, a guard or a watch reference of an
effect of one of its steps: its entry is cleared, its WATCH entries leave the trigger queue, the others keeping their order,
and its outstanding read is to be discarded (R16). -/
def Obligations.DisarmWatchFreesAndPurges : Prop :=
  requiredLength 0x12 = some (.fixed 12)
  ∧ ∀ (s : State) (words : List Word), s.handsEngine 0x12 words →
    (63 < bits (wordAt words 2) 0 8 →
      exec .disarmWatch s = .next (State.react { s with cmd := .reporting .outOfRange 3 [] }))
    ∧ ∀ w : Fin 64, bits (wordAt words 2) 0 8 = w.val → ∀ inUse : Prop,
        (inUse ↔
          ∃ q : Fin 32, (s.quest q).state.running = true ∧ ∃ i, i < (s.quest q).stepCount ∧
            ((s.questStep q i).trigger = some w ∨ (s.questStep q i).guard = some w
              ∨ ∃ n, n < (s.questStep q i).effectCount ∧
                  (s.effectRec ((s.questStep q i).firstEffect + n)).kind.usesWatch = true
                  ∧ (s.effectRec ((s.questStep q i).firstEffect + n)).ref = some w)) →
        ((s.watch w).state = .free →
          exec .disarmWatch s = .next (State.react { s with cmd := .reporting .notDefined 3 [] }))
        ∧ ((s.watch w).state ≠ .free → inUse →
            exec .disarmWatch s = .next (State.react { s with cmd := .reporting .inUse 3 [] }))
        ∧ ((s.watch w).state ≠ .free → ¬inUse →
            exec .disarmWatch s =
              .next (State.react
                { s.updWatch w (fun _ => Watch.cleared) with
                  queue := s.queue.filter (fun e => !e.isWatchOf w)
                  syncRead := s.syncRead.map (fun r => if r.watch = w then { r with stale := true } else r)
                  cmd := .reporting .ok 3 [] }))

/-! ### The pools and the quest table -/

/-- R42, R43: DEFINE STEPS writes its records from the first index on, when all of them parse and none lies in the step range
of a running quest; every other record of the pool, and all else, is as it was. R111, R112: DEFINE EFFECTS does the same for
the effect pool, against the effect ranges of the steps of running quests. -/
def Obligations.DefineCommandsWriteTheirRecords : Prop :=
  (∀ (s : State) (words : List Word) (first count : Nat), s.handsEngine 0x20 words →
    first = bits (wordAt words 2) 0 8 → count = bits (wordAt words 2) 16 8 →
    (128 < first + count →
      exec .defineSteps s = .next (State.react { s with cmd := .reporting .outOfRange 3 [] }))
    ∧ (first + count ≤ 128 →
        (∀ st, parseRecords parseStep words 0 count = .error st →
          exec .defineSteps s = .next (State.react { s with cmd := .reporting st 3 [] }))
        ∧ ∀ recs : List StepRec, recs.length = count →
            (∀ i, (h : i < recs.length) →
              parseStep (wordAt words (3 + 3 * i)) (wordAt words (3 + 3 * i + 1)) (wordAt words (3 + 3 * i + 2))
                = .ok recs[i]) →
            ((∃ q : Fin 32, (s.quest q).state.running = true ∧ ∃ n, first ≤ n ∧ n < first + count
                ∧ (s.quest q).firstStep ≤ n ∧ n < (s.quest q).firstStep + (s.quest q).stepCount) →
              exec .defineSteps s = .next (State.react { s with cmd := .reporting .inUse 3 [] }))
            ∧ ((∀ q : Fin 32, (s.quest q).state.running = true → ∀ n, first ≤ n → n < first + count →
                  ¬((s.quest q).firstStep ≤ n ∧ n < (s.quest q).firstStep + (s.quest q).stepCount)) →
                ∃ t : State, exec .defineSteps s = .next (State.react t)
                  ∧ t = { s with steps := t.steps, cmd := .reporting .ok 3 [] }
                  ∧ (∀ i, (h : i < recs.length) → t.stepRec (first + i) = recs[i])
                  ∧ ∀ n, (n < first ∨ first + count ≤ n) → t.stepRec n = s.stepRec n)))
  ∧ ∀ (s : State) (words : List Word) (first count : Nat), s.handsEngine 0x21 words →
      first = bits (wordAt words 2) 0 8 → count = bits (wordAt words 2) 16 8 →
      (96 < first + count →
        exec .defineEffects s = .next (State.react { s with cmd := .reporting .outOfRange 3 [] }))
      ∧ (first + count ≤ 96 →
          (∀ st, parseRecords parseEffect words 0 count = .error st →
            exec .defineEffects s = .next (State.react { s with cmd := .reporting st 3 [] }))
          ∧ ∀ recs : List EffectRec, recs.length = count →
              (∀ i, (h : i < recs.length) →
                parseEffect (wordAt words (3 + 3 * i)) (wordAt words (3 + 3 * i + 1))
                  (wordAt words (3 + 3 * i + 2)) = .ok recs[i]) →
              ((∃ q : Fin 32, (s.quest q).state.running = true ∧ ∃ i, i < (s.quest q).stepCount ∧ ∃ n,
                  first ≤ n ∧ n < first + count ∧ (s.questStep q i).firstEffect ≤ n
                  ∧ n < (s.questStep q i).firstEffect + (s.questStep q i).effectCount) →
                exec .defineEffects s = .next (State.react { s with cmd := .reporting .inUse 3 [] }))
              ∧ ((∀ q : Fin 32, (s.quest q).state.running = true → ∀ i, i < (s.quest q).stepCount → ∀ n,
                    first ≤ n → n < first + count →
                    ¬((s.questStep q i).firstEffect ≤ n
                        ∧ n < (s.questStep q i).firstEffect + (s.questStep q i).effectCount)) →
                  ∃ t : State, exec .defineEffects s = .next (State.react t)
                    ∧ t = { s with effects := t.effects, cmd := .reporting .ok 3 [] }
                    ∧ (∀ i, (h : i < recs.length) → t.effectRec (first + i) = recs[i])
                    ∧ ∀ n, (n < first ∨ first + count ≤ n) → t.effectRec n = s.effectRec n))

/-- R42 check 2, R95, R111 check 2: the checks of one record's words, in their order, the first that fails giving the
status; how the words are read when they pass; and the records of a command, of which the first refused gives the status.
The codes of the timeout actions and of the effect kinds, which kinds are bit kinds and which use a watch, and the fields
that may hold none, all ones at the field's width (12.3). -/
def Obligations.RecordsParseByTheirFields : Prop :=
  (∀ n, actionOfCode n = ([.fail, .skip, .note] : List TimeoutAction)[n]?)
  ∧ (∀ n,
    kindOfCode n =
      ([.setBit, .clearBit, .flipBit, .writeField, .addField, .writeIf, .copyShadow] : List EffectKind)[n]?)
  ∧ (∀ kind : EffectKind,
    (kind.isBitKind = true ↔ kind = .setBit ∨ kind = .clearBit ∨ kind = .flipBit)
    ∧ (kind.usesWatch = true ↔ kind = .writeIf ∨ kind = .copyShadow))
  ∧ ((∀ w : Fin 64, watchRefOf w.val = some (some w)) ∧ watchRefOf 0xFF = some none
    ∧ ∀ n, 64 ≤ n → n ≠ 0xFF → watchRefOf n = none)
  ∧ ((∀ q : Fin 32, questRefOf q.val = some (some q)) ∧ questRefOf 0xFF = some none
    ∧ ∀ n, 32 ≤ n → n ≠ 0xFF → questRefOf n = none)
  ∧ ((∀ t : Fin 8, timerRefOf t.val = some (some t)) ∧ timerRefOf 0xF = some none
    ∧ ∀ n, 8 ≤ n → n ≠ 0xF → timerRefOf n = none)
  ∧ (∀ (a b c : Word) (st : Status),
    parseStep a b c = .error st ↔
      (([ (decide (64 ≤ bits a 0 8 ∧ bits a 0 8 ≠ 0xFF), Status.outOfRange),
          (decide (64 ≤ bits a 8 8 ∧ bits a 8 8 ≠ 0xFF), .outOfRange),
          (decide (bits a 8 8 ≠ 0xFF ∧ bits a 0 8 = 0xFF), .badField),
          (decide (8 ≤ bits a 16 4 ∧ bits a 16 4 ≠ 0xF), .outOfRange),
          (decide (2 < bits b 16 2), .badField),
          (decide (95 < bits b 0 8), .outOfRange),
          (decide (4 < bits b 8 8), .badField),
          (decide (96 < bits b 0 8 + bits b 8 8), .outOfRange),
          (decide (32 ≤ bits c 0 8 ∧ bits c 0 8 ≠ 0xFF), .outOfRange) ] : List (Bool × Status)).find?
        Prod.fst).map Prod.snd = some st)
  ∧ (∀ (a b c : Word) (st : Status),
    parseEffect a b c = .error st ↔
      (([ (decide (6 < bits a 0 8), Status.badField),
          (decide (bits a 0 8 ≤ 2 ∧ (b.toNat % 4 ≠ 0 ∨ 4095 < bits a 8 16)), .badField),
          (decide (3 ≤ bits a 0 8 ∧ (b.toNat % 4 ≠ 0 ∨ bits a 16 8 = 0 ∨ 32 < bits a 16 8 ∨ 31 < bits a 8 8
            ∨ 32 < bits a 8 8 + bits a 16 8)), .badField),
          (decide (5 ≤ bits a 0 8 ∧ 64 ≤ bits a 24 8 ∧ bits a 24 8 ≠ 0xFF), .outOfRange),
          (decide (5 ≤ bits a 0 8 ∧ bits a 24 8 = 0xFF), .badField) ] : List (Bool × Status)).find?
        Prod.fst).map Prod.snd = some st)
  ∧ (∀ (words : List Word) (count : Nat) (st : Status),
    parseRecords parseStep words 0 count = .error st ↔
      ∃ k, k < count
        ∧ parseStep (wordAt words (3 + 3 * k)) (wordAt words (3 + 3 * k + 1)) (wordAt words (3 + 3 * k + 2)) = .error st
        ∧ ∀ i, i < k → ∃ r,
            parseStep (wordAt words (3 + 3 * i)) (wordAt words (3 + 3 * i + 1)) (wordAt words (3 + 3 * i + 2)) = .ok r)
  ∧ (∀ (words : List Word) (count : Nat) (st : Status),
    parseRecords parseEffect words 0 count = .error st ↔
      ∃ k, k < count
        ∧ parseEffect (wordAt words (3 + 3 * k)) (wordAt words (3 + 3 * k + 1)) (wordAt words (3 + 3 * k + 2))
          = .error st
        ∧ ∀ i, i < k → ∃ r,
            parseEffect (wordAt words (3 + 3 * i)) (wordAt words (3 + 3 * i + 1)) (wordAt words (3 + 3 * i + 2))
              = .ok r)
  ∧ (∀ (a b c : Word) (trigger guard : Option (Fin 64)) (timer : Option (Fin 8)) (action : TimeoutAction)
      (call : Option (Fin 32)),
    watchRefOf (bits a 0 8) = some trigger → watchRefOf (bits a 8 8) = some guard →
    timerRefOf (bits a 16 4) = some timer → actionOfCode (bits b 16 2) = some action →
    questRefOf (bits c 0 8) = some call → (guard ≠ none → trigger ≠ none) → bits b 8 8 ≤ 4 →
    bits b 0 8 ≤ 95 → bits b 0 8 + bits b 8 8 ≤ 96 →
    parseStep a b c =
      .ok
        { trigger := trigger, guard := guard, gated := bit a 24, timer := timer, action := action,
          firstEffect := bits b 0 8, effectCount := bits b 8 8, call := call, notify := bit a 25 })
  ∧ (∀ (a b c : Word) (kind : EffectKind), kindOfCode (bits a 0 8) = some kind → kind.isBitKind = true →
      b.toNat % 4 = 0 → bits a 8 16 ≤ 4095 →
      parseEffect a b c =
        .ok
          { kind := kind, addr := b.toNat + 4 * (bits a 8 16 / 32), lowBit := bits a 8 16 % 32, width := 1,
            value := c, ref := none })
  ∧ ∀ (a b c : Word) (kind : EffectKind) (ref : Option (Fin 64)), kindOfCode (bits a 0 8) = some kind →
      kind.isBitKind = false → b.toNat % 4 = 0 → 1 ≤ bits a 16 8 → bits a 8 8 + bits a 16 8 ≤ 32 →
      (kind.usesWatch = true → watchRefOf (bits a 24 8) = some ref ∧ ref ≠ none) →
      (kind.usesWatch = false → ref = none) →
      parseEffect a b c =
        .ok { kind := kind, addr := b.toNat, lowBit := bits a 8 8, width := bits a 16 8, value := c, ref := ref }

/-- R44, R45: LOAD QUEST checks its fields and then the quest's state; a quest that is not running becomes LOADED with the
new definition and its progress cleared. R51: UNLOAD QUEST clears a quest in LOADED, DONE or FAILED. R52: READ QUEST changes
no field and reports the context's four words, with the codes of 12.3 and every bit outside the listed fields 0 (R193). -/
def Obligations.LoadUnloadAndReadQuest : Prop :=
  (∀ n, orderOfCode n = ([.strict, .loose] : List OrderMode)[n]?)
  ∧ ((∀ p : Fin 6, ownerOfCode p.val = some (.player p)) ∧ ownerOfCode 14 = some .any
    ∧ ∀ n, 6 ≤ n → n ≠ 14 → ownerOfCode n = none)
  ∧ (∀ o : OrderMode, orderOfCode o.code = some o)
  ∧ (∀ o : Owner, ownerOfCode o.code = some o)
  ∧ ([.vacant, .loaded, .active, .held, .suspended, .done, .failed] : List QuestState).map QuestState.code
    = [0, 1, 2, 3, 4, 5, 6]
  ∧ (([.outOfOrder, .timeout, .childFailed, .callBusy, .depth, .abandoned] : List FailReason).map
      fun r => reasonCode (some r)) = [0, 1, 2, 3, 4, 5]
  ∧ reasonCode none = 7
  ∧ ((∀ t : Fin 8, timerCode (some t) = t.val) ∧ timerCode none = 0xF)
  ∧ ((∀ q : Fin 32, questCode (some q) = q.val) ∧ questCode none = 0xFF)
  ∧ requiredLength 0x22 = some (.fixed 16)
  ∧ requiredLength 0x27 = some (.fixed 12)
  ∧ requiredLength 0x28 = some (.fixed 12)
  ∧ (∀ (s : State) (words : List Word) (first count : Nat), s.handsEngine 0x22 words →
    first = bits (wordAt words 2) 8 8 → count = bits (wordAt words 2) 16 5 →
    ((31 < bits (wordAt words 2) 0 8 ∨ 127 < first) →
      exec .loadQuest s = .next (State.react { s with cmd := .reporting .outOfRange 3 [] }))
    ∧ ∀ q : Fin 32, bits (wordAt words 2) 0 8 = q.val → first ≤ 127 →
        ((count = 0 ∨ 16 < count) →
          exec .loadQuest s = .next (State.react { s with cmd := .reporting .badField 3 [] }))
        ∧ (1 ≤ count → count ≤ 16 → 128 < first + count →
            exec .loadQuest s = .next (State.react { s with cmd := .reporting .outOfRange 3 [] }))
        ∧ (1 ≤ count → count ≤ 16 → first + count ≤ 128 →
            ((orderOfCode (bits (wordAt words 2) 24 2) = none ∨ ownerOfCode (bits (wordAt words 2) 28 4) = none) →
              exec .loadQuest s = .next (State.react { s with cmd := .reporting .badField 3 [] }))
            ∧ ∀ (order : OrderMode) (owner : Owner), orderOfCode (bits (wordAt words 2) 24 2) = some order →
                ownerOfCode (bits (wordAt words 2) 28 4) = some owner →
                ((s.quest q).state.running = true →
                  exec .loadQuest s = .next (State.react { s with cmd := .reporting .busy 3 [] }))
                ∧ ((s.quest q).state.running = false →
                    exec .loadQuest s =
                      .next (State.react
                        { s.updQuest q (fun _ =>
                            { state := .loaded, firstStep := first, stepCount := count, current := 0,
                              order := order, owner := owner, tag := wordAt words 3, parent := none, child := none,
                              depth := 0, bound := none, late := false, reason := none }) with
                          cmd := .reporting .ok 3 [] }))))
  ∧ (∀ (s : State) (words : List Word), s.handsEngine 0x27 words →
      (31 < bits (wordAt words 2) 0 8 →
        exec .unloadQuest s = .next (State.react { s with cmd := .reporting .outOfRange 3 [] }))
      ∧ ∀ q : Fin 32, bits (wordAt words 2) 0 8 = q.val →
          ((s.quest q).state = .vacant →
            exec .unloadQuest s = .next (State.react { s with cmd := .reporting .notDefined 3 [] }))
          ∧ ((s.quest q).state.running = true →
              exec .unloadQuest s = .next (State.react { s with cmd := .reporting .busy 3 [] }))
          ∧ ((s.quest q).state = .loaded ∨ (s.quest q).state = .done ∨ (s.quest q).state = .failed →
              exec .unloadQuest s =
                .next (State.react
                  { s.updQuest q (fun _ => Quest.cleared) with cmd := .reporting .ok 3 [] })))
  ∧ ∀ (s : State) (words : List Word), s.handsEngine 0x28 words →
      (31 < bits (wordAt words 2) 0 8 →
        exec .readQuest s = .next (State.react { s with cmd := .reporting .outOfRange 3 [] }))
      ∧ ∀ q : Fin 32, bits (wordAt words 2) 0 8 = q.val →
          ∃ w0 w1 w3 : Word,
            exec .readQuest s = .next (State.react { s with cmd := .reporting .ok 3 [w0, w1, (s.quest q).tag, w3] })
            ∧ bits w0 0 3 = (s.quest q).state.code ∧ bits w0 3 1 = (s.quest q).order.code
            ∧ bit w0 4 = (s.quest q).late ∧ bits w0 8 2 = (s.quest q).depth % 4
            ∧ bits w0 12 4 = (s.quest q).current % 16 ∧ bits w0 16 4 = (s.quest q).owner.code
            ∧ bits w0 20 4 = timerCode (s.quest q).bound ∧ bits w0 24 3 = reasonCode (s.quest q).reason
            ∧ bits w1 0 8 = (s.quest q).firstStep % 256 ∧ bits w1 8 8 = (s.quest q).stepCount % 256
            ∧ bits w1 16 8 = questCode (s.quest q).parent ∧ bits w1 24 8 = questCode (s.quest q).child
            ∧ bits w3 0 8 = ((s.quest q).firstStep + (s.quest q).current) % 256
            ∧ bits w0 5 3 = 0 ∧ bits w0 10 2 = 0 ∧ bits w0 27 5 = 0 ∧ bits w3 8 24 = 0

/-- R46, R47: START QUEST on a quest that is not running and whose steps are valid: it is ACTIVE at step 0 with depth 0, no
late flag and no fail reason, and the timer of step 0, where there is one with a reload, is bound. A step 0 with a trigger
ends the work item there with status OK; a step 0 whose trigger is NONE is passed within the same work item. The validation
goes through the steps from step 0 upwards, and for each through its checks in their order: a FREE trigger watch, a FREE
guard watch, an unset timer, a call of the quest itself, and each effect's FREE watch reference; the first that fails gives
the status. -/
def Obligations.StartQuestEntersStepZero : Prop :=
  (∀ (s : State) (q : Fin 32),
    s.validateQuest q =
      (((List.range (s.quest q).stepCount).flatMap (fun i =>
          [ ((s.questStep q i).trigger.any (fun w => (s.watch w).state == .free), Status.notDefined),
            ((s.questStep q i).guard.any (fun w => (s.watch w).state == .free), .notDefined),
            ((s.questStep q i).timer.any (fun t => (s.timer t).reload == 0), .notDefined),
            ((s.questStep q i).call == some q, .badField) ]
          ++ (List.range (s.questStep q i).effectCount).map (fun n =>
            ((s.effectRec ((s.questStep q i).firstEffect + n)).kind.usesWatch
                && (s.effectRec ((s.questStep q i).firstEffect + n)).ref.any (fun w => (s.watch w).state == .free),
              .notDefined)))).find? Prod.fst).map Prod.snd)
  ∧ ∀ (s : State) (words : List Word), s.handsEngine 0x23 words →
    (31 < bits (wordAt words 2) 0 8 →
      exec .startQuest s = .next (State.react { s with cmd := .reporting .outOfRange 3 [] }))
    ∧ ∀ q : Fin 32, bits (wordAt words 2) 0 8 = q.val →
        ((s.quest q).state = .vacant →
          exec .startQuest s = .next (State.react { s with cmd := .reporting .notDefined 3 [] }))
        ∧ ((s.quest q).state.running = true →
            exec .startQuest s = .next (State.react { s with cmd := .reporting .busy 3 [] }))
        ∧ (∀ st, (s.quest q).state ≠ .vacant → (s.quest q).state.running = false →
            s.validateQuest q = some st →
            exec .startQuest s = .next (State.react { s with cmd := .reporting st 3 [] }))
        ∧ ∀ u v : State, (s.quest q).state ≠ .vacant → (s.quest q).state.running = false →
            s.validateQuest q = none →
            u = s.updQuest q (fun c =>
                  { c with reason := none, late := false, depth := 0, current := 0, state := .active }) →
            v = (match (s.stepRec (s.quest q).firstStep).timer with
                | none => u
                | some k => u.bindTimer q k) →
            ((s.stepRec (s.quest q).firstStep).trigger ≠ none →
              exec .startQuest s = .next (State.react { v with work := none, cmd := .reporting .ok 3 [] }))
            ∧ ((s.stepRec (s.quest q).firstStep).trigger = none →
                exec .startQuest s =
                  .next (State.react (State.runEngine
                    { v with
                      work :=
                        some
                          { source := .command 0x23, depth := 0, player := s.page.turn.toNat % 16, visits := [],
                            task := .pass q }
                      cmd := .dispatched words true })))

/-- R48: HOLD QUEST makes an ACTIVE quest HELD, its step and its binding kept. R49: RESUME QUEST makes a HELD quest ACTIVE
again; with its late flag set, the flag is cleared and the step takes its timeout action within the command's work item: for
FAIL (R37, R40), a quest without a parent releases its timer, fails with TIMEOUT and posts QUEST_FAILED, with status OK. The
notice names the step's timer, even where another quest has taken it (DEDUCED, log 18). The engine does the parts of a work
item within one step (DESIGN CHOICE, log 21; `Obligations.EnginePartsFollowTheRules` gives the parts of SKIP, NOTE and a
failure that travels up). -/
def Obligations.HoldAndResumeQuest : Prop :=
  (∀ (s : State) (words : List Word), s.handsEngine 0x24 words →
    (31 < bits (wordAt words 2) 0 8 →
      exec .holdQuest s = .next (State.react { s with cmd := .reporting .outOfRange 3 [] }))
    ∧ ∀ q : Fin 32, bits (wordAt words 2) 0 8 = q.val →
        ((s.quest q).state = .vacant →
          exec .holdQuest s = .next (State.react { s with cmd := .reporting .notDefined 3 [] }))
        ∧ ((s.quest q).state ≠ .vacant → (s.quest q).state ≠ .active →
            exec .holdQuest s = .next (State.react { s with cmd := .reporting .busy 3 [] }))
        ∧ ((s.quest q).state = .active →
            exec .holdQuest s =
              .next (State.react
                { s.updQuest q (fun c => { c with state := .held }) with cmd := .reporting .ok 3 [] })))
  ∧ ∀ (s : State) (words : List Word), s.handsEngine 0x25 words →
      (31 < bits (wordAt words 2) 0 8 →
        exec .resumeQuest s = .next (State.react { s with cmd := .reporting .outOfRange 3 [] }))
      ∧ ∀ q : Fin 32, bits (wordAt words 2) 0 8 = q.val →
          ((s.quest q).state = .vacant →
            exec .resumeQuest s = .next (State.react { s with cmd := .reporting .notDefined 3 [] }))
          ∧ ((s.quest q).state ≠ .vacant → (s.quest q).state ≠ .held →
              exec .resumeQuest s = .next (State.react { s with cmd := .reporting .busy 3 [] }))
          ∧ ((s.quest q).state = .held → (s.quest q).late = false →
              exec .resumeQuest s =
                .next (State.react
                  { s.updQuest q (fun c => { c with state := .active }) with cmd := .reporting .ok 3 [] }))
          ∧ ((s.quest q).state = .held → (s.quest q).late = true →
              exec .resumeQuest s =
                .next (State.react (State.runEngine
                  { s.updQuest q (fun c => { c with state := .active, late := false }) with
                    work :=
                      some
                        { source := .command 0x25, depth := 0, player := s.page.turn.toNat % 16, visits := [],
                          task := .timeout q }
                    cmd := .dispatched words true })))
          ∧ ((s.quest q).state = .held → (s.quest q).late = true → (s.currentStep q).action = .fail →
              (s.quest q).parent = none →
              ∃ u : State, u = (s.updQuest q (fun c => { c with state := .active, late := false })).release q
                ∧ exec .resumeQuest s =
                    .next (State.react
                      { (State.updQuest
                          (State.handNotice
                            (u.updQuest q (fun c => { c with state := .failed, reason := some .timeout }))
                            { kind := .questFailed, number := q.val, step := some (s.quest q).current,
                              owner := some (s.quest q).owner, tag := (s.quest q).tag, statuses := [],
                              ended := none, reason := some .timeout, timer := (s.currentStep q).timer,
                              offer := none, old := 0, new := 0, source := .command 0x25, turn := 0,
                              parent := none, child := (s.quest q).child, depth := (s.quest q).depth })
                          q (fun c => { c with late := false })) with
                        work := none, cmd := .reporting .ok 3 [] }))

/-- R50, R88, R89: ABANDON QUEST on a running quest without parent or child: its timer is released, it fails with ABANDONED,
its notice is handed over, and the status is OK. On a chain of two, the child fails first with ABANDONED; the parent fails
with ABANDONED when it is the one named, and with CHILD_FAILED when the child is; both links are cleared. On a chain of any
length up to four (R80), given from its bottom quest to its top, the quests up to the one named fail with ABANDONED, those
above it with CHILD_FAILED, every link is cleared, and no other quest changes. -/
def Obligations.AbandonQuestFailsTheChain : Prop :=
  (∀ (s : State) (words : List Word) (n : Fin 32) (chain : List (Fin 32)) (m : Nat), s.handsEngine 0x26 words →
    bits (wordAt words 2) 0 8 = n.val → (s.quest n).state.running = true → chain.Nodup → chain.length ≤ 4 →
    chain[m]? = some n →
    (∀ i c p, chain[i]? = some c → chain[i + 1]? = some p →
      (s.quest c).parent = some p ∧ (s.quest p).child = some c) →
    (∀ q, chain[0]? = some q → (s.quest q).child = none) →
    (∀ q, chain.getLast? = some q → (s.quest q).parent = none) →
    ∃ t, exec .abandonQuest s = .next t
      ∧ (∀ i q, chain[i]? = some q →
          t.quest q =
            { s.quest q with
              state := .failed, reason := some (if i ≤ m then .abandoned else .childFailed), late := false,
              parent := none, child := none, bound := none })
      ∧ (∀ q : Fin 32, q ∉ chain → t.quest q = s.quest q)
      ∧ t.work = none ∧ t.cmd = .reporting .ok 3 [])
  ∧ ∀ (s : State) (words : List Word), s.handsEngine 0x26 words →
    (31 < bits (wordAt words 2) 0 8 →
      exec .abandonQuest s = .next (State.react { s with cmd := .reporting .outOfRange 3 [] }))
    ∧ ∀ n : Fin 32, bits (wordAt words 2) 0 8 = n.val →
        ((s.quest n).state = .vacant →
          exec .abandonQuest s = .next (State.react { s with cmd := .reporting .notDefined 3 [] }))
        ∧ ((s.quest n).state ≠ .vacant → (s.quest n).state.running = false →
            exec .abandonQuest s = .next (State.react { s with cmd := .reporting .busy 3 [] }))
        ∧ ((s.quest n).state.running = true → (s.quest n).parent = none → (s.quest n).child = none →
            exec .abandonQuest s =
              .next (State.react
                { (State.updQuest
                    (State.handNotice
                      ((s.release n).updQuest n (fun c => { c with state := .failed, reason := some .abandoned }))
                      { kind := .questFailed, number := n.val, step := some (s.quest n).current,
                        owner := some (s.quest n).owner, tag := (s.quest n).tag, statuses := [], ended := none,
                        reason := some .abandoned, timer := none, offer := none, old := 0, new := 0,
                        source := .command 0x26, turn := 0, parent := none, child := none,
                        depth := (s.quest n).depth })
                    n (fun c => { c with late := false })) with
                  work := none, cmd := .reporting .ok 3 [] }))
        ∧ ∀ p c : Fin 32, p ≠ c → (n = p ∨ n = c) → (s.quest n).state.running = true →
            (s.quest p).child = some c → (s.quest c).parent = some p →
            (s.quest p).parent = none → (s.quest c).child = none →
            ∃ t, exec .abandonQuest s = .next t
              ∧ t.quest c =
                  { s.quest c with
                    state := .failed, reason := some .abandoned, late := false, parent := none, bound := none }
              ∧ t.quest p =
                  { s.quest p with
                    state := .failed, late := false, child := none, bound := none
                    reason := some (if n = p then .abandoned else .childFailed) }
              ∧ (∀ q : Fin 32, q ≠ p → q ≠ c → t.quest q = s.quest q)
              ∧ t.work = none ∧ t.cmd = .reporting .ok 3 []

/-! ### The quest engine -/

/-- R33 to R40, R81 to R87: the parts of a work item. A pass releases the binding (R33.1), does the step's effects in record
order (R34; the effect unit takes the request or ends it SKIPPED, R97), hands over STEP_PASSED (R33.3) and makes the call
(R81, R82) or advances (R35); a timeout acts by R37 to R39; a completion resumes the parent (R85), and a failure fails it
(R87). In a teardown the quests up to the one named fail ABANDONED and those above it CHILD_FAILED (R89). Entering
a step makes it current, binds its timer, and passes it at once where its trigger is NONE (R31, R32); a start clears what is
left of an earlier run and enters step 0 (R47, R82). The visit reaches the recorded quests in turn (R67) and applies the
gate, the match, the guard and the order check (R68 to R70); without one left, the work item ends, a command's with status
OK (R64). A recorded quest that is no longer ACTIVE is passed over (DEDUCED, log 22); a timeout's notices name the step's
timer, bound or not (DEDUCED, log 18). -/
def Obligations.EnginePartsFollowTheRules : Prop :=
  (∀ (s : State) (w : WorkItem) (q : Fin 32) (i : Nat) (st : StepRec) (u v : State),
    st = s.stepRec ((s.quest q).firstStep + i) → u = s.updQuest q (fun c => { c with current := i }) →
    v = (match st.timer with | none => u | some t => u.bindTimer q t) →
    s.enterStep w q i =
      { v with work := some { w with task := if st.trigger = none then .pass q else .nextVisit } })
  ∧ (∀ (s : State) (w : WorkItem) (q : Fin 32) (depth : Nat),
    s.beginQuest w q depth =
      State.enterStep
        (s.updQuest q (fun c =>
          { c with reason := none, late := false, depth := depth, current := 0, state := .active })) w q 0)
  ∧ (∀ (s : State) (w : WorkItem), w.task = .nextVisit → w.visits = [] →
    ((∃ code, w.source = .command code) →
      s.engineStep w = { s with work := none, cmd := .reporting .ok 3 [] })
    ∧ ((∀ code, w.source ≠ .command code) → s.engineStep w = { s with work := none }))
  ∧ (∀ (s : State) (w : WorkItem) (q : Fin 32) (rest : List (Fin 32)) (v : Fin 64) (writer : Writer) (depth : Nat)
      (st : StepRec) (counts later : Prop) (next : Task → State),
    w.task = .nextVisit → w.visits = q :: rest → w.source = .watch v writer depth →
    st = s.stepRec ((s.quest q).firstStep + (s.quest q).current) →
    (counts ↔ st.gated = false ∨ (s.quest q).owner = .any
      ∨ ∃ p : Fin 6, (s.quest q).owner = .player p ∧ w.player = p.val) →
    (later ↔ ∃ i, (s.quest q).current < i ∧ i < (s.quest q).stepCount
      ∧ (s.stepRec ((s.quest q).firstStep + i)).trigger = some v) →
    (∀ k, next k = { s with work := some { w with visits := rest, task := k } }) →
    (((s.quest q).state ≠ .active ∨ ¬counts) → s.engineStep w = next .nextVisit)
    ∧ ((s.quest q).state = .active → counts →
        (st.trigger = some v → (∀ g, st.guard = some g → (s.watch g).truth = true) →
          s.engineStep w = next (.pass q))
        ∧ (st.trigger = some v → (∃ g, st.guard = some g ∧ (s.watch g).truth = false) →
            s.engineStep w = next .nextVisit)
        ∧ (st.trigger ≠ some v → (s.quest q).order = .strict → later →
            s.engineStep w = next (.fail q .outOfOrder none none))
        ∧ (st.trigger ≠ some v → ((s.quest q).order = .loose ∨ ¬later) → s.engineStep w = next .nextVisit)))
  ∧ ∀ (s : State) (w : WorkItem) (q : Fin 32),
    (w.task = .pass q →
      s.engineStep w = { s.release q with work := some { w with task := .effects q 0 [] } })
    ∧ (∀ i outs, w.task = .effects q i outs →
        ((s.currentStep q).effectCount ≤ i →
          s.engineStep w = { s with work := some { w with task := .passed q outs } })
        ∧ ∀ r, i < (s.currentStep q).effectCount → r = s.effectRec ((s.currentStep q).firstEffect + i) →
            (((r.kind = .writeIf ∧ s.refTruth r.ref = false)
                ∨ (r.kind = .copyShadow ∧ ∃ x, r.ref = some x ∧ (s.watch x).state = .free)) →
              s.engineStep w =
                { s with
                  work :=
                    some { w with
                      task := .effects q (i + 1) (outs ++ [{ status := .skipped, old := 0, new := 0 }]) } })
            ∧ (r.kind ≠ .copyShadow → (r.kind = .writeIf → s.refTruth r.ref = true) →
                s.engineStep w =
                  { s with
                    effectUnit := .grantWait { record := r, depth := w.depth, captured := 0 }
                    work := some { w with task := .awaiting q i outs } })
            ∧ ∀ x, r.kind = .copyShadow → r.ref = some x → (s.watch x).state ≠ .free →
                s.engineStep w =
                  { s with
                    effectUnit := .grantWait { record := r, depth := w.depth, captured := (s.watch x).shadow }
                    work := some { w with task := .awaiting q i outs } })
    ∧ (∀ outs u, w.task = .passed q outs →
        u = (if (s.currentStep q).notify = true then
              s.handNotice
                { kind := .stepPassed, number := q.val, step := some (s.quest q).current,
                  owner := some (s.quest q).owner, tag := (s.quest q).tag,
                  statuses := outs.map EffectResult.status, ended := some .passed, reason := none,
                  timer := none, offer := none,
                  old := (match outs with | [] => 0 | o :: _ => o.old),
                  new := (match outs with | [] => 0 | o :: _ => o.new), source := w.source, turn := 0,
                  parent := (s.quest q).parent, child := (s.quest q).child, depth := (s.quest q).depth }
            else s) →
        ((s.currentStep q).call = none →
          s.engineStep w = { u with work := some { w with task := .advance q .passed } })
        ∧ ∀ c, (s.currentStep q).call = some c →
            (3 ≤ (u.quest q).depth →
              s.engineStep w = { u with work := some { w with task := .fail q .depth none none } })
            ∧ ((u.quest q).depth < 3 →
                ((u.quest c).state = .vacant ∨ (u.quest c).state.running = true ∨ u.validateQuest c ≠ none) →
                s.engineStep w = { u with work := some { w with task := .fail q .callBusy none none } })
            ∧ ((u.quest q).depth < 3 → (u.quest c).state ≠ .vacant → (u.quest c).state.running = false →
                u.validateQuest c = none →
                s.engineStep w =
                  State.beginQuest
                    ((u.updQuest q (fun x => { x with child := some c, state := .suspended })).updQuest c
                      (fun x => { x with parent := some q }))
                    w c ((u.quest q).depth + 1)))
    ∧ (∀ how, w.task = .advance q how →
        ((s.quest q).current + 1 < (s.quest q).stepCount →
          s.engineStep w = s.enterStep w q ((s.quest q).current + 1))
        ∧ ∀ u, (s.quest q).stepCount ≤ (s.quest q).current + 1 →
            u = (s.updQuest q (fun c => { c with state := .done, late := false })).handNotice
                  { kind := .questDone, number := q.val, step := some (s.quest q).current,
                    owner := some (s.quest q).owner, tag := (s.quest q).tag, statuses := [], ended := some how,
                    reason := none, timer := none, offer := none, old := 0, new := 0, source := w.source,
                    turn := 0, parent := (s.quest q).parent, child := (s.quest q).child,
                    depth := (s.quest q).depth } →
            ((s.quest q).parent = none → s.engineStep w = { u with work := some { w with task := .nextVisit } })
            ∧ ∀ p, (s.quest q).parent = some p →
                s.engineStep w =
                  { (u.updQuest q (fun c => { c with parent := none })).updQuest p
                      (fun c => { c with child := none, state := .active }) with
                    work := some { w with task := .advance p .passed } })
    ∧ (w.task = .timeout q →
        ((s.currentStep q).action = .fail →
          s.engineStep w =
            { s.release q with
              work := some { w with task := .fail q .timeout (s.currentStep q).timer none } })
        ∧ ((s.currentStep q).action = .skip → (s.currentStep q).notify = false →
            s.engineStep w = { s.release q with work := some { w with task := .advance q .skipped } })
        ∧ ((s.currentStep q).action = .skip → (s.currentStep q).notify = true →
            s.engineStep w =
              { (s.release q).handNotice
                  { kind := .stepSkipped, number := q.val, step := some (s.quest q).current,
                    owner := some (s.quest q).owner, tag := (s.quest q).tag, statuses := [],
                    ended := some .skipped, reason := none, timer := (s.currentStep q).timer, offer := none,
                    old := 0, new := 0, source := w.source, turn := 0, parent := (s.quest q).parent,
                    child := (s.quest q).child, depth := (s.quest q).depth } with
                work := some { w with task := .advance q .skipped } })
        ∧ ((s.currentStep q).action = .note →
            s.engineStep w =
              { (s.release q).handNotice
                  { kind := .stepLate, number := q.val, step := some (s.quest q).current,
                    owner := some (s.quest q).owner, tag := (s.quest q).tag, statuses := [],
                    ended := some .late, reason := none, timer := (s.currentStep q).timer, offer := none,
                    old := 0, new := 0, source := w.source, turn := 0, parent := (s.quest q).parent,
                    child := (s.quest q).child, depth := (s.quest q).depth } with
                work := some { w with task := .nextVisit } }))
    ∧ ∀ reason timer upTo u, w.task = .fail q reason timer upTo →
        u = State.updQuest
              (State.handNotice
                ((s.release q).updQuest q (fun c => { c with reason := some reason, state := .failed }))
                { kind := .questFailed, number := q.val, step := some (s.quest q).current,
                  owner := some (s.quest q).owner, tag := (s.quest q).tag, statuses := [], ended := none,
                  reason := some reason, timer := timer, offer := none, old := 0, new := 0, source := w.source,
                  turn := 0, parent := (s.quest q).parent, child := (s.quest q).child,
                  depth := (s.quest q).depth })
              q (fun c => { c with late := false }) →
        ((s.quest q).parent = none → s.engineStep w = { u with work := some { w with task := .nextVisit } })
        ∧ ∀ p, (s.quest q).parent = some p → ∀ v : State,
            v = (u.updQuest q (fun c => { c with parent := none })).updQuest p (fun c => { c with child := none }) →
            ((upTo = none ∨ upTo = some q) →
              s.engineStep w = { v with work := some { w with task := .fail p .childFailed none none } })
            ∧ ∀ n, upTo = some n → n ≠ q →
                s.engineStep w = { v with work := some { w with task := .fail p .abandoned none (some n) } }

/-- R61, R65, R67 to R71, R74: an idle engine, with no command waiting, takes a WATCH entry at the head of the queue,
records the ACTIVE quests in ascending number and the player, and visits them one after another by the parts that
`Obligations.EnginePartsFollowTheRules` states, until the work item ends or an effect waits (the engine does these parts
within one step, up to a bound: DESIGN CHOICE, log 21). With no quest ACTIVE the entry changes no quest. With one ACTIVE
quest: a trigger that does not count for it, that its step does not name (and, in STRICT mode, that no later step names), or
whose guard is FALSE, changes nothing; one that a later step of a STRICT quest names makes it fail OUT_OF_ORDER; one that
its step names, with its guard TRUE, passes the step, and a step without effects, notice and call is left for the next one.
While a command waits, no trigger is taken. -/
def Obligations.WatchTriggerVisitsTheActiveQuests : Prop :=
  (∀ s : State, s.runEngine = runParts Config.engineParts s)
  ∧ (∀ (n : Nat) (s : State),
    runParts 0 s = s
    ∧ (s.work = none → runParts n s = s)
    ∧ (∀ w q i outs, s.work = some w → w.task = .awaiting q i outs → runParts n s = s)
    ∧ ∀ w, s.work = some w → (∀ q i outs, w.task ≠ .awaiting q i outs) →
        runParts (n + 1) s = runParts n (s.engineStep w))
  ∧ (∀ (s : State) (v : Fin 64) (writer : Writer) (depth : Nat) (rest : List Trigger) (visits : List (Fin 32)),
    s.work = none → s.engineCommandWaits = false → s.queue = .watch v writer depth :: rest →
    visits.Pairwise (fun p q => p < q) → (∀ q : Fin 32, q ∈ visits ↔ (s.quest q).state = .active) →
    exec .watchTriggerTake s =
      .next (State.react (State.runEngine
        { s with
          queue := rest
          work :=
            some
              { source := .watch v writer depth, depth := depth, player := s.page.turn.toNat % 16,
                visits := visits, task := .nextVisit } })))
  ∧ (∀ (s : State) (v : Fin 64) (writer : Writer) (depth : Nat) (rest : List Trigger), s.work = none →
    s.engineCommandWaits = false → s.queue = .watch v writer depth :: rest →
    ((∀ q : Fin 32, (s.quest q).state ≠ .active) →
      exec .watchTriggerTake s = .next (State.react { s with queue := rest }))
    ∧ ∀ (q : Fin 32) (st : StepRec) (counts : Prop), (∀ p : Fin 32, (s.quest p).state = .active ↔ p = q) →
        st = s.stepRec ((s.quest q).firstStep + (s.quest q).current) →
        (counts ↔ st.gated = false ∨ (s.quest q).owner = .any
          ∨ ∃ p : Fin 6, (s.quest q).owner = .player p ∧ s.page.turn.toNat % 16 = p.val) →
        (¬counts → exec .watchTriggerTake s = .next (State.react { s with queue := rest }))
        ∧ (counts → st.trigger = some v → (∃ g, st.guard = some g ∧ (s.watch g).truth = false) →
            exec .watchTriggerTake s = .next (State.react { s with queue := rest }))
        ∧ (counts → st.trigger ≠ some v →
            ((s.quest q).order = .loose
              ∨ ∀ i, (s.quest q).current < i → i < (s.quest q).stepCount →
                  (s.stepRec ((s.quest q).firstStep + i)).trigger ≠ some v) →
            exec .watchTriggerTake s = .next (State.react { s with queue := rest }))
        ∧ (counts → st.trigger ≠ some v → (s.quest q).order = .strict → (s.quest q).parent = none →
            (∃ i, (s.quest q).current < i ∧ i < (s.quest q).stepCount
              ∧ (s.stepRec ((s.quest q).firstStep + i)).trigger = some v) →
            exec .watchTriggerTake s =
              .next (State.react
                { (State.updQuest
                    (State.handNotice
                      ((State.release { s with queue := rest } q).updQuest q (fun c =>
                        { c with state := .failed, reason := some .outOfOrder }))
                      { kind := .questFailed, number := q.val, step := some (s.quest q).current,
                        owner := some (s.quest q).owner, tag := (s.quest q).tag, statuses := [], ended := none,
                        reason := some .outOfOrder, timer := none, offer := none, old := 0, new := 0,
                        source := .watch v writer depth, turn := 0, parent := none,
                        child := (s.quest q).child, depth := (s.quest q).depth })
                    q (fun c => { c with late := false })) with
                  work := none }))
        ∧ (counts → st.trigger = some v → (∀ g, st.guard = some g → (s.watch g).truth = true) →
            exec .watchTriggerTake s =
              .next (State.react (runParts (Config.engineParts - 1)
                { s with
                  queue := rest
                  work :=
                    some
                      { source := .watch v writer depth, depth := depth, player := s.page.turn.toNat % 16,
                        visits := [], task := .pass q } }))
            ∧ (st.effectCount = 0 → st.notify = false → st.call = none →
                (s.quest q).current + 1 < (s.quest q).stepCount →
                (s.stepRec ((s.quest q).firstStep + ((s.quest q).current + 1))).trigger ≠ none →
                (s.stepRec ((s.quest q).firstStep + ((s.quest q).current + 1))).timer = none →
                exec .watchTriggerTake s =
                  .next (State.react
                    { (State.release { s with queue := rest } q).updQuest q
                        (fun c => { c with current := c.current + 1 }) with
                      work := none }))))
  ∧ ∀ s : State, s.work = none → s.engineCommandWaits = true → exec .watchTriggerTake s = .next s

/-- R36, R41, R61, R65, R72: an idle engine, with no command waiting, takes an EXPIRY entry at the head of the queue, and
delivers it by the binding as it stands: nothing where there is no binder or the binder no longer holds the timer; the late
flag on a HELD quest; the timeout action on an ACTIVE one, for NOTE (R39) the release and STEP_LATE. While a command waits,
no trigger is taken. -/
def Obligations.ExpiryIsDeliveredByTheBinding : Prop :=
  (∀ (s : State) (k : Fin 8) (binder : Option (Fin 32)) (rest : List Trigger), s.work = none →
    s.engineCommandWaits = false → s.queue = .expiry k binder :: rest →
    (binder = none → exec .expiryTriggerTake s = .next (State.react { s with queue := rest }))
    ∧ ∀ q : Fin 32, binder = some q →
        ((s.quest q).bound ≠ some k → exec .expiryTriggerTake s = .next (State.react { s with queue := rest }))
        ∧ ((s.quest q).bound = some k → (s.quest q).state = .held →
            exec .expiryTriggerTake s =
              .next (State.react (State.updQuest { s with queue := rest } q (fun c => { c with late := true }))))
        ∧ ((s.quest q).bound = some k → (s.quest q).state = .active →
            exec .expiryTriggerTake s =
              .next (State.react (State.runEngine
                { s with
                  queue := rest
                  work :=
                    some
                      { source := .expiry k, depth := 0, player := s.page.turn.toNat % 16, visits := [],
                        task := .timeout q } }))
            ∧ ((s.currentStep q).action = .note →
                exec .expiryTriggerTake s =
                  .next (State.react
                    { (State.handNotice (State.release { s with queue := rest } q)
                        { kind := .stepLate, number := q.val, step := some (s.quest q).current,
                          owner := some (s.quest q).owner, tag := (s.quest q).tag, statuses := [],
                          ended := some .late, reason := none, timer := (s.currentStep q).timer, offer := none,
                          old := 0, new := 0, source := .expiry k, turn := 0, parent := (s.quest q).parent,
                          child := (s.quest q).child, depth := (s.quest q).depth }) with
                      work := none }))))
  ∧ ∀ s : State, s.work = none → s.engineCommandWaits = true → exec .expiryTriggerTake s = .next s

/-- R63, R64: the engine's own steps change nothing but quests, timers, the trigger queue, the causes, BEAT_OUT, the notice
writer, the work item, the effect unit, the command unit, and what follows every step (the publication and the port): memory
and the stream, the watches, both pools, the copies, the region map and the fault record are as they were. R65: a command of
the engine that is handed over while a work item is in progress waits. -/
def Obligations.EngineStepsKeepTheRest : Prop :=
  (∀ (c : Instr) (s : State),
    c ∈ [Instr.disarmWatch, .defineSteps, .defineEffects, .loadQuest, .startQuest, .holdQuest, .resumeQuest,
      .abandonQuest, .unloadQuest, .readQuest] →
    s.work ≠ none → exec c s = .next s)
  ∧ ∀ (c : Instr) (s t : State),
    c ∈ [Instr.watchTriggerTake, .expiryTriggerTake, .effectSettled, .startQuest, .holdQuest, .resumeQuest,
      .abandonQuest, .loadQuest, .unloadQuest, .readQuest] →
    exec c s = .next t →
    t = { s with
          quests := t.quests, timers := t.timers, queue := t.queue, cause := t.cause, beatOut := t.beatOut,
          notice := t.notice, work := t.work, effectUnit := t.effectUnit, cmd := t.cmd, mpa := t.mpa }

/-- R31, R123, R124: binding a timer with a reload gives it the quest as its binder, loads and runs it, and takes it from the
quest that held it; a timer without one is not bound. A release stops the timer with its count kept and clears both sides.
No other timer and no other quest changes. -/
def Obligations.BindAndReleaseKeepBothSides : Prop :=
  (∀ (s : State) (q : Fin 32) (k : Fin 8), SettledTimers s →
    ((s.timer k).reload = 0 → s.bindTimer q k = s)
    ∧ ((s.timer k).reload ≠ 0 →
        ((s.bindTimer q k).timer k =
            { s.timer k with binder := some q, count := (s.timer k).reload, state := .running })
        ∧ ((s.bindTimer q k).quest q = { s.quest q with bound := some k })
        ∧ (∀ p : Fin 32, p ≠ q →
            (s.bindTimer q k).quest p =
              if (s.timer k).binder = some p then { s.quest p with bound := none } else s.quest p)
        ∧ ∀ j : Fin 8, j ≠ k → (s.bindTimer q k).timer j = s.timer j))
  ∧ ∀ (s : State) (q : Fin 32), SettledTimers s →
      ((s.quest q).bound = none → s.release q = s)
      ∧ ∀ k : Fin 8, (s.quest q).bound = some k →
          ((s.release q).timer k = { s.timer k with state := .stopped, binder := none })
          ∧ ((s.release q).quest q = { s.quest q with bound := none })
          ∧ (∀ p : Fin 32, p ≠ q → (s.release q).quest p = s.quest p)
          ∧ ∀ j : Fin 8, j ≠ k → (s.release q).timer j = s.timer j

/-! ### Effects -/

/-- R101: the three bit kinds at width 1. R102: WRITE_FIELD, and WRITE_IF in the same way. R103: ADD_FIELD saturates. R104:
COPY_SHADOW gives the captured shadow, zero-extended to a width at least the watch's, truncated to a smaller one. In each
case every bit of the word outside the field keeps its value. The old value is the field of the word read (R100). -/
def Obligations.EffectsComputeTheirNewValues : Prop :=
  (∀ (j : EffectJob) (word : Word) (i : Nat), 1 ≤ j.record.width → j.record.lowBit + j.record.width ≤ 32 →
    (j.oldValue word).getLsbD i = (decide (i < j.record.width) && word.getLsbD (j.record.lowBit + i)))
  ∧ (∀ (j : EffectJob) (word : Word), j.record.width = 1 → j.record.lowBit ≤ 31 →
    (j.record.kind = .setBit → (j.newWord word).getLsbD j.record.lowBit = true ∧ j.newValue word = 1)
    ∧ (j.record.kind = .clearBit → (j.newWord word).getLsbD j.record.lowBit = false ∧ j.newValue word = 0)
    ∧ (j.record.kind = .flipBit →
        (j.newWord word).getLsbD j.record.lowBit = !word.getLsbD j.record.lowBit
        ∧ (word.getLsbD j.record.lowBit = false → j.newValue word = 1)
        ∧ (word.getLsbD j.record.lowBit = true → j.newValue word = 0)))
  ∧ (∀ (j : EffectJob) (word : Word), 1 ≤ j.record.width → j.record.lowBit + j.record.width ≤ 32 →
      (∀ i, (i < j.record.lowBit ∨ j.record.lowBit + j.record.width ≤ i) →
        (j.newWord word).getLsbD i = word.getLsbD i)
      ∧ (∀ i, i < j.record.width →
          (j.newWord word).getLsbD (j.record.lowBit + i) = (j.newValue word).getLsbD i))
  ∧ (∀ (j : EffectJob) (word : Word) (i : Nat), 1 ≤ j.record.width → j.record.width ≤ 32 →
      (j.record.kind = .writeField ∨ j.record.kind = .writeIf) →
      (j.newValue word).getLsbD i = (decide (i < j.record.width) && j.record.value.getLsbD i))
  ∧ (∀ (j : EffectJob) (word : Word) (watchWidth : Nat), 1 ≤ j.record.width → j.record.width ≤ 32 →
      j.record.kind = .copyShadow → j.captured.toNat < 2 ^ watchWidth →
      (watchWidth ≤ j.record.width → j.newValue word = j.captured)
      ∧ (j.record.width < watchWidth → ∀ i,
          (j.newValue word).getLsbD i = (decide (i < j.record.width) && j.captured.getLsbD i)))
  ∧ ∀ (j : EffectJob) (word : Word) (sum : Int), 1 ≤ j.record.width → j.record.lowBit + j.record.width ≤ 32 →
      j.record.kind = .addField → sum = (j.oldValue word).toNat + j.record.value.toInt →
      (sum < 0 → (j.newValue word).toNat = 0)
      ∧ (2 ^ j.record.width - 1 < sum → ((j.newValue word).toNat : Int) = 2 ^ j.record.width - 1)
      ∧ (0 ≤ sum → sum ≤ 2 ^ j.record.width - 1 → ((j.newValue word).toNat : Int) = sum)

/-- R98 to R101, R105, R106: the effect's grant. A permitted target is read and written in one step: the write enters the
stream with writer EFFECT and the work item's depth, and the unit settles with the old and the new value. A denied target
makes no transfer: the fault is recorded with writer EFFECT, ACCESS is raised, and the engine goes on with the outcome
DENIED, 0 and 0. -/
def Obligations.EffectGrantTransfersOrDenies : Prop :=
  ∀ (s : State) (j : EffectJob), s.mpa.port = some (.ir .effectRmw) → s.effectUnit = .grantWait j →
    (s.permitsEffect j.record.addr = true →
      exec .effectGrant s =
        .next (State.react
          { State.pushStream
              { s with
                mem := writeWord s.mem j.record.addr (j.newWord (readWord s.mem j.record.addr))
                mpa := { s.mpa with port := none, previousIR := true } }
              (.write
                { addr := j.record.addr, lanes := Lanes.all,
                  data := j.newWord (readWord s.mem j.record.addr), writer := .effect, depth := j.depth,
                  atPowerOn := false }) with
            effectUnit :=
              .settling (j.oldValue (readWord s.mem j.record.addr))
                (j.newValue (readWord s.mem j.record.addr)) }))
    ∧ (s.permitsEffect j.record.addr = false → ∀ (w : WorkItem) (q : Fin 32) (i : Nat) (outs : List EffectResult),
        s.work = some w → w.task = .awaiting q i outs →
        ∃ t : State, exec .effectGrant s = .next (State.react t)
          ∧ t = State.runEngine
              { s with
                fault := { writer := .effect, dir := .write, addr := BitVec.ofNat 24 j.record.addr }
                cause :=
                  { s.cause with
                    arrivals := s.cause.arrivals ||| (causeAccess &&& ~~~s.cause.working) }
                mpa := { s.mpa with port := none, previousIR := true }
                effectUnit := .idle
                work :=
                  some { w with
                    task := .effects q (i + 1) (outs ++ [{ status := .denied, old := 0, new := 0 }]) } }
          ∧ t.mem = s.mem ∧ t.stream = s.stream ∧ t.watches = s.watches
          ∧ t.fault = { writer := .effect, dir := .write, addr := BitVec.ofNat 24 j.record.addr })

/-- R105, R106, R108: an effect in SETTLING waits until the three blocks have taken its write; then DONE is reported with the
old and new values, and the engine goes on with the next effect of the step. -/
def Obligations.EffectSettlesWhenItsWriteIsTaken : Prop :=
  ∀ (s : State) (old new : Word), s.effectUnit = .settling old new →
    ((∃ it ∈ s.stream, ∃ e, it.body = .write e ∧ e.writer = .effect) → exec .effectSettled s = .next s)
    ∧ ((∀ it ∈ s.stream, ∀ e, it.body = .write e → e.writer ≠ .effect) → SettledTimers s →
        ∀ (w : WorkItem) (q : Fin 32) (i : Nat) (outs : List EffectResult), s.work = some w →
          w.task = .awaiting q i outs →
          exec .effectSettled s =
            .next (State.react (State.runEngine
              { s with
                effectUnit := .idle
                work :=
                  some { w with
                    task := .effects q (i + 1) (outs ++ [{ status := .done, old := old, new := new }]) } })))

/-! ### Regions -/

/-- R134, R136, R157, R158, R159: SET REGION and CLEAR REGION hold the entry's new contents as a pending change and report;
the map is as it was. A number above 15 gives OUT_OF_RANGE; rights above 31, bounds that are no multiples of 64, empty,
beyond installed memory or on the control page, and, for a fogged region, a stride code, a first tile, a size or a last tile
out of range give BAD_FIELD. The stride codes 0 to 3 are 16, 32, 64 and 128 bytes. -/
def Obligations.RegionCommandsHoldAPendingChange : Prop :=
  requiredLength 0x40 = some (.fixed 24)
  ∧ requiredLength 0x41 = some (.fixed 12)
  ∧ (∀ n, strideOfCode n = ([.b16, .b32, .b64, .b128] : List TileStride)[n]?)
  ∧ ([.b16, .b32, .b64, .b128] : List TileStride).map TileStride.bytes = [16, 32, 64, 128]
  ∧ (∀ (s : State) (words : List Word) (base limit : Nat), s.hands 0x40 words →
    base = (wordAt words 3).toNat → limit = (wordAt words 4).toNat →
    (15 < bits (wordAt words 2) 0 8 →
      exec .setRegion s = .next (State.react { s with cmd := .reporting .outOfRange 3 [] }))
    ∧ ∀ (n : Fin 16) (rights : Rights) (good : Prop), bits (wordAt words 2) 0 8 = n.val →
        rights = ⟨bit (wordAt words 2) 8, bit (wordAt words 2) 9, bit (wordAt words 2) 10,
          bit (wordAt words 2) 11, bit (wordAt words 2) 12⟩ →
        (good ↔ bits (wordAt words 2) 8 8 ≤ 31 ∧ base % 64 = 0 ∧ limit % 64 = 0 ∧ base < limit
          ∧ limit ≤ s.installed ∧ (limit ≤ s.pageBase ∨ s.pageBase + 0x1000 ≤ base)) →
        (¬good → exec .setRegion s = .next (State.react { s with cmd := .reporting .badField 3 [] }))
        ∧ (good → bit (wordAt words 2) 16 = false →
            exec .setRegion s =
              .next (State.react
                { s with
                  pendingRegion :=
                    some (n,
                      { enabled := true, base := base, limit := limit, rights := rights, fog := false,
                        stride := .b16, firstTile := 0, fogWord := 0 })
                  cmd := .reporting .ok 3 [] }))
        ∧ (good → bit (wordAt words 2) 16 = true →
            (4 ≤ bits (wordAt words 2) 20 3 →
              exec .setRegion s = .next (State.react { s with cmd := .reporting .badField 3 [] }))
            ∧ ∀ (stride : TileStride) (first : Nat), strideOfCode (bits (wordAt words 2) 20 3) = some stride →
                first = bits (wordAt words 2) 24 8 →
                ((127 < first ∨ (limit - base) % stride.bytes ≠ 0
                    ∨ 128 < first + (limit - base) / stride.bytes) →
                  exec .setRegion s = .next (State.react { s with cmd := .reporting .badField 3 [] }))
                ∧ (first ≤ 127 → (limit - base) % stride.bytes = 0 →
                    first + (limit - base) / stride.bytes ≤ 128 →
                    exec .setRegion s =
                      .next (State.react
                        { s with
                          pendingRegion :=
                            some (n,
                              { enabled := true, base := base, limit := limit, rights := rights, fog := true,
                                stride := stride, firstTile := first, fogWord := wordAt words 5 })
                          cmd := .reporting .ok 3 [] }))))
  ∧ ∀ (s : State) (words : List Word), s.hands 0x41 words →
      (15 < bits (wordAt words 2) 0 8 →
        exec .clearRegion s = .next (State.react { s with cmd := .reporting .outOfRange 3 [] }))
      ∧ ∀ n : Fin 16, bits (wordAt words 2) 0 8 = n.val →
          exec .clearRegion s =
            .next (State.react
              { s with
                pendingRegion :=
                  some (n,
                    { enabled := false, base := 0, limit := 0, rights := ⟨false, false, false, false, false⟩,
                      fog := false, stride := .b16, firstTile := 0, fogWord := 0 })
                cmd := .reporting .ok 3 [] })

/-! ### Causes and the interrupt -/

/-- R156, R169, R171: a publication writes the fault word where the record differs from the one last written, then the cause
word with the working set grown by the arrivals, then the vector word with the highest-numbered cause that is both in the
working set and handed enabled, or 0; with the third write the pending set, the enable set, the vector and INT settle. R173:
after a warm reset the cause word and then the vector word are written 0. R193: the fault word holds the address in bits 0 to
23, the direction in bit 24 and the writer in bits 28 and 29, and 0 elsewhere. The record is compared until the cause word's
grant (DEDUCED, log 11). -/
def Obligations.PublicationWritesFaultCauseAndVector : Prop :=
  (∀ f : FaultRec,
    bits f.word 0 24 = f.addr.toNat
    ∧ bits f.word 24 1 = (match f.dir with | .read => 0 | .write => 1)
    ∧ bits f.word 25 3 = 0
    ∧ bits f.word 28 2 = (match f.writer with | .proc => 0 | .scan => 1 | .effect => 2 | .part => 3)
    ∧ bits f.word 30 2 = 0)
  ∧ (∀ s : State, s.cause.publication = .raising →
    (s.fault ≠ s.cause.lastFault → s.causeRequest = some .faultWrite)
    ∧ (s.fault = s.cause.lastFault → s.causeRequest = some .causeWrite))
  ∧ ∀ s v : State, v = { s with mpa := { s.mpa with port := none, previousIR := true } } →
    (s.mpa.port = some (.ir .faultWrite) →
      exec .faultWordWrite s =
        .next (State.react
          { v.partWrite (s.pageBase + 0x030) s.fault.word with
            cause := { s.cause with lastFault := s.fault } }))
    ∧ (s.mpa.port = some (.ir .causeWrite) →
        exec .causeWordPublish s =
          .next (State.react
            { v.partWrite s.pageBase ((s.cause.working ||| s.cause.arrivals).setWidth 32) with
              cause :=
                { s.cause with
                  working := s.cause.working ||| s.cause.arrivals, arrivals := 0
                  publication := .vectoring } }))
    ∧ (s.mpa.port = some (.ir .vectorWrite) → ∀ n : Nat,
        ((∀ i, i < 15 → (s.cause.working &&& s.cause.handed).getLsbD i = false) → n = 0) →
        (∀ k, k < 15 → (s.cause.working &&& s.cause.handed).getLsbD k = true →
          (∀ i, k < i → i < 15 → (s.cause.working &&& s.cause.handed).getLsbD i = false) → n = k + 1) →
        exec .vectorWordPublish s =
          .next (State.react
            { v.partWrite (s.pageBase + 0x008) (BitVec.ofNat 32 n) with
              cause :=
                { s.cause with
                  pendingSet := s.cause.working, enableSet := s.cause.handed, vector := BitVec.ofNat 4 n
                  int := s.cause.working &&& s.cause.handed != 0, publication := .idle } }))
    ∧ (s.mpa.port = some (.ir .resetWrite) →
        (s.cause.publication = .resetCause →
          exec .warmResetCauseWrite s =
            .next (State.react
              { v.partWrite s.pageBase 0 with cause := { s.cause with publication := .resetVector } }))
        ∧ (s.cause.publication = .resetVector →
            exec .warmResetCauseWrite s =
              .next (State.react
                { v.partWrite (s.pageBase + 0x008) 0 with cause := { s.cause with publication := .idle } })))

/-! ### The notice writer -/

/-- R186, R187, R188: a notice joins the hold queue with the turn copy recorded while fewer than 8 are held, and the ring is
examined; the ninth is discarded and NOTICE_LOST raised. An IDLE writer with the ring set, room in it, no index write
outstanding and no configuration pending takes the oldest notice as the element in progress; otherwise nothing changes (that
the examination waits for the index writes of an installation is log 16, DEDUCED). -/
def Obligations.NoticesAreHeldOrLost : Prop :=
  (∀ (s : State) (n : Notice),
    (s.notice.hold.length < 8 →
      s.handNotice n =
        State.examineRing
          { s with notice := { s.notice with hold := s.notice.hold ++ [{ n with turn := s.page.turn }] } })
    ∧ (8 ≤ s.notice.hold.length → s.handNotice n = s.raise causeNoticeLost))
  ∧ ∀ s : State,
      (∀ n rest, s.notice.writer = .idle → s.notice.hold = n :: rest → s.notice.ringSet = true →
        (s.notice.produce + 1) % s.notice.size ≠ s.page.consume → s.notice.indexWrites = 0 →
        s.notice.pendingConfig = none →
        s.examineRing =
          { s with notice := { s.notice with hold := rest, element := some n, writer := .writing 0 } })
      ∧ ((s.notice.writer ≠ .idle ∨ s.notice.hold = [] ∨ s.notice.ringSet = false
            ∨ (s.notice.produce + 1) % s.notice.size = s.page.consume ∨ s.notice.indexWrites ≠ 0
            ∨ s.notice.pendingConfig ≠ none) → s.examineRing = s)

/-- R188, R191: the notice writer's three writes, each with writer PART: a word of the element at the produce index, the
produce index advancing after word 7; the produce index, after which NOTICE is raised and the writer is free; and the two
index words of an installed configuration, after which SET NOTICE RING is answered OK, if it still waits, and the ring is
examined (the examination after the second index write is log 16, DEDUCED). The writer, once free, installs a configuration
that is pending, or examines the ring. R186, R193: the eight words of an element, 0 in every bit outside their fields. -/
def Obligations.NoticeWriterFillsTheRing : Prop :=
  (∀ n : Notice, ∃ w0 w2 w5 w7 : Word, n.words = [w0, n.tag, w2, n.old, n.new, w5, n.turn, w7]
    ∧ bits w0 0 3 =
        (match n.kind with
        | .stepPassed => 0 | .stepSkipped => 1 | .stepLate => 2 | .questDone => 3 | .questFailed => 4
        | .watchFired => 5)
    ∧ bits w0 3 5 = 0 ∧ bits w0 8 8 = n.number % 256
    ∧ bits w0 16 4 = (match n.step with | some i => i % 16 | none => 15)
    ∧ bits w0 20 4 = 0
    ∧ bits w0 24 4 = (match n.owner with | some (.player p) => p.val | some .any => 14 | none => 15)
    ∧ bits w0 28 4 = 0
    ∧ (∀ i, i < 4 → bits w2 (2 * i) 2 =
        (match n.statuses[i]? with | some .done => 0 | some .skipped => 1 | some .denied => 2 | none => 3))
    ∧ bits w2 8 2 = (match n.ended with | some .passed => 0 | some .skipped => 1 | some .late => 2 | none => 3)
    ∧ bits w2 10 2 = 0
    ∧ bits w2 12 3 =
        (match n.reason with
        | some .outOfOrder => 0 | some .timeout => 1 | some .childFailed => 2 | some .callBusy => 3
        | some .depth => 4 | some .abandoned => 5 | none => 7)
    ∧ bits w2 15 1 = 0
    ∧ bits w2 16 4 = (match n.timer with | some t => t.val | none => 15)
    ∧ bits w2 20 2 = (match n.offer with | some .queued => 0 | some .depth => 1 | some .lost => 2 | none => 3)
    ∧ bits w2 22 10 = 0
    ∧ bits w5 0 2 = (match n.source with | .watch _ _ _ => 0 | .expiry _ => 1 | .command _ => 2)
    ∧ bits w5 2 6 = 0
    ∧ bits w5 8 8 = (match n.source with | .watch w _ _ => w.val | .expiry t => t.val | .command c => c % 256)
    ∧ bits w5 16 3 =
        (match n.source with
        | .watch _ .proc _ => 0 | .watch _ .scan _ => 1 | .watch _ .effect _ => 2 | .watch _ .part _ => 3
        | .expiry _ => 7 | .command _ => 7)
    ∧ bits w5 19 5 = 0
    ∧ bits w5 24 4 = (match n.source with | .watch _ _ d => d % 16 | .expiry _ => 0 | .command _ => 0)
    ∧ bits w5 28 4 = 0
    ∧ bits w7 0 8 = (match n.parent with | some q => q.val | none => 255)
    ∧ bits w7 8 8 = (match n.child with | some q => q.val | none => 255)
    ∧ bits w7 16 2 = n.depth % 4 ∧ bits w7 18 14 = 0)
  ∧ (∀ s : State,
    (s.notice.pendingConfig = none → s.writerFree = s.examineRing)
    ∧ ∀ base size, s.notice.pendingConfig = some (base, size) →
        s.writerFree =
          { s with
            notice :=
              { s.notice with
                ringSet := true, base := base, size := size, produce := 0, pendingConfig := none
                indexWrites := 2 }
            page := { s.page with consume := 0 } })
  ∧ ∀ s v : State, v = { s with mpa := { s.mpa with port := none, previousIR := true } } →
    (∀ (k : Nat) (n : Notice), s.mpa.port = some (.ir .elementWrite) → s.notice.writer = .writing k → k ≤ 7 →
      s.notice.element = some n →
      (k < 7 →
        exec .noticeElementWrite s =
          .next (State.react
            { v.partWrite (s.notice.base + 32 * s.notice.produce + 4 * k) (n.words.getD k 0) with
              notice := { s.notice with writer := .writing (k + 1) } }))
      ∧ (k = 7 →
          exec .noticeElementWrite s =
            .next (State.react
              { v.partWrite (s.notice.base + 32 * s.notice.produce + 4 * k) (n.words.getD k 0) with
                notice :=
                  { s.notice with
                    writer := .publishing, produce := (s.notice.produce + 1) % s.notice.size } })))
    ∧ (s.mpa.port = some (.ir .produceWrite) →
        exec .noticeProduceWrite s =
          .next (State.react (State.writerFree
            { (v.partWrite (s.pageBase + 0x028) (BitVec.ofNat 32 s.notice.produce)).raise causeNotice with
              notice := { s.notice with writer := .idle, element := none } })))
    ∧ (s.mpa.port = some (.ir .ringIndexWrite) →
        (s.notice.indexWrites = 2 →
          exec .noticeRingIndexWrite s =
            .next (State.react
              { v.partWrite (s.pageBase + 0x028) 0 with notice := { s.notice with indexWrites := 1 } }))
        ∧ (∀ words, s.notice.indexWrites = 1 → s.notice.pendingConfig = none →
            s.cmd = .dispatched words true → codeOf words = 0x50 →
            exec .noticeRingIndexWrite s =
              .next (State.react (State.examineRing
                { v.partWrite (s.pageBase + 0x02C) 0 with
                  notice := { s.notice with indexWrites := 0 }, cmd := .reporting .ok 3 [] })))
        ∧ (s.notice.indexWrites = 1 →
            (s.notice.pendingConfig ≠ none
              ∨ ∀ words, s.cmd = .dispatched words true → codeOf words ≠ 0x50) →
            exec .noticeRingIndexWrite s =
              .next (State.react (State.writerFree
                { v.partWrite (s.pageBase + 0x02C) 0 with notice := { s.notice with indexWrites := 0 } }))))

/-- R191: SET NOTICE RING with a base that is no multiple of 32, a size below 8 or above 256, or a ring beyond installed
memory or on the control page gives BAD_FIELD. An IDLE writer (with no index write outstanding, log 17) installs the
configuration: both indexes 0, and two index writes to be made, before which no element is begun (log 16, DEDUCED); a busy
one holds it as pending. -/
def Obligations.SetNoticeRingInstallsOrWaits : Prop :=
  ∀ (s : State) (words : List Word) (base size : Nat) (good : Prop), s.hands 0x50 words →
    base = (wordAt words 2).toNat → size = (wordAt words 3).toNat →
    (good ↔ base % 32 = 0 ∧ 8 ≤ size ∧ size ≤ 256 ∧ base + 32 * size ≤ s.installed
      ∧ (base + 32 * size ≤ s.pageBase ∨ s.pageBase + 0x1000 ≤ base)) →
    (¬good → exec .setNoticeRing s = .next (State.react { s with cmd := .reporting .badField 3 [] }))
    ∧ (good → s.notice.writer = .idle → s.notice.indexWrites = 0 →
        exec .setNoticeRing s =
          .next (State.react
            { s with
              notice :=
                { s.notice with
                  ringSet := true, base := base, size := size, produce := 0, pendingConfig := none
                  indexWrites := 2 }
              page := { s.page with consume := 0 }
              cmd := .dispatched words true }))
    ∧ (good → (s.notice.writer ≠ .idle ∨ s.notice.indexWrites ≠ 0) →
        exec .setNoticeRing s =
          .next (State.react
            { s with
              notice := { s.notice with pendingConfig := some (base, size) }
              cmd := .dispatched words true }))

/-! ### The command ring -/

/-- R174, R177, R178, R179: a fetch reads the next word of the slot that the consume index names. The header checks follow:
a code that is not in the table gives BAD_CODE; a wrong length gives BAD_LENGTH; for the two DEFINE commands a record count
of 0 or above 4 gives BAD_FIELD, once word 2 is read. A block whose words have all been read is handed over. -/
def Obligations.FetchReadsAndChecksTheBlock : Prop :=
  (∀ c ∈ [(0x10, 24), (0x11, 24), (0x12, 12), (0x13, 12), (0x14, 12), (0x22, 16), (0x23, 12), (0x24, 12), (0x25, 12),
      (0x26, 12), (0x27, 12), (0x28, 12), (0x30, 16), (0x31, 12), (0x32, 12), (0x33, 12), (0x34, 12), (0x40, 24),
      (0x41, 12), (0x50, 16)], requiredLength c.1 = some (.fixed c.2))
  ∧ requiredLength 0x20 = some .byCount
  ∧ requiredLength 0x21 = some .byCount
  ∧ (∀ code, code ∉ [0x10, 0x11, 0x12, 0x13, 0x14, 0x20, 0x21, 0x22, 0x23, 0x24, 0x25, 0x26, 0x27, 0x28, 0x30, 0x31,
      0x32, 0x33, 0x34, 0x40, 0x41, 0x50] → requiredLength code = none)
  ∧ ∀ (s : State) (words block : List Word), s.mpa.port = some (.ir .fetchRead) → s.cmd = .fetching words →
    block = words ++ [readWord s.mem (s.pageBase + 0x800 + 64 * s.consumeIndex + 4 * words.length)] →
    ∃ next : CmdState,
      exec .commandFetchRead s =
        .next (State.react
          { s with mpa := { s.mpa with port := none, previousIR := true }, cmd := next })
      ∧ (requiredLength (codeOf block) = none → next = .reporting .badCode 3 [])
      ∧ (∀ n, requiredLength (codeOf block) = some (.fixed n) →
          (lengthOf block ≠ n → next = .reporting .badLength 3 [])
          ∧ (lengthOf block = n →
              (block.length < n / 4 → next = .fetching block)
              ∧ (n / 4 ≤ block.length → next = .dispatched block false)))
      ∧ (requiredLength (codeOf block) = some .byCount → ∀ count, count = bits (wordAt block 2) 16 8 →
          (block.length < 3 → next = .fetching block)
          ∧ (3 ≤ block.length →
              ((count = 0 ∨ 4 < count) → next = .reporting .badField 3 [])
              ∧ (1 ≤ count → count ≤ 4 →
                  (lengthOf block ≠ 12 + 12 * count → next = .reporting .badLength 3 [])
                  ∧ (lengthOf block = 12 + 12 * count →
                      (block.length < 3 + 3 * count → next = .fetching block)
                      ∧ (3 + 3 * count ≤ block.length → next = .dispatched block false)))))

/-- R158, R176, R180, R181: the answer is written with writer PART: the result words in ascending order, then the status word
with DONE set. With the status word a pending region change is installed, CMD_DONE is raised and the consume index advances
modulo 32; then the consume index is written, and the command unit, IDLE, fetches again only when its index differs from the
produce copy. The status codes are 0 OK to 7 NOT_DEFINED. -/
def Obligations.AnswerIsWrittenThenTheIndexAdvances : Prop :=
  ([.ok, .badCode, .badLength, .badField, .outOfRange, .busy, .inUse, .notDefined] : List Status).map Status.code
    = [0, 1, 2, 3, 4, 5, 6, 7]
  ∧ ∀ s v : State, v = { s with mpa := { s.mpa with port := none, previousIR := true } } →
    (∀ st next r rest, s.mpa.port = some (.ir .resultWrite) → s.cmd = .reporting st next (r :: rest) →
      exec .resultWordWrite s =
        .next (State.react
          { v.partWrite (s.pageBase + 0x800 + 64 * s.consumeIndex + 4 * next) r with
            cmd := .reporting st (next + 1) rest }))
    ∧ (∀ st next, s.mpa.port = some (.ir .statusWrite) → s.cmd = .reporting st next [] →
        exec .statusWordWrite s =
          .next (State.react
            { v.partWrite (s.pageBase + 0x800 + 64 * s.consumeIndex + 4)
                (BitVec.ofNat 32 (st.code + 0x80000000)) with
              regions :=
                (match s.pendingRegion with
                | none => s.regions
                | some c => s.regions.set c.1.val c.2 c.1.isLt)
              pendingRegion := none
              cause :=
                { s.cause with
                  arrivals := s.cause.arrivals ||| (causeCmdDone &&& ~~~s.cause.working) }
              consumeIndex := (s.consumeIndex + 1) % 32
              cmd := .advancing }))
    ∧ (s.mpa.port = some (.ir .consumeWrite) →
        exec .consumeIndexWrite s =
          .next (State.react
            { v.partWrite (s.pageBase + 0x024) (BitVec.ofNat 32 s.consumeIndex) with
              cmd := if s.consumeIndex = s.page.produce then .idle else .fetching [] }))

/-! ### The laws that every step keeps -/

/-- The laws hold in the state right after power-on reset. -/
def Obligations.LawsHoldAtReset : Prop :=
  MemoryLaw State.reset ∧ QueueLaw State.reset ∧ EngineLaw State.reset ∧ InterruptLaw State.reset
    ∧ RingLaw State.reset ∧ StreamLaw State.reset ∧ GrantLaw State.reset ∧ ShadowLaw State.reset
    ∧ CopyLaw State.reset ∧ SettledTimers State.reset

/-- Every step keeps memory in its canonical form. -/
def Obligations.StepsKeepMemoryCanonical : Prop :=
  ∀ s t : State, MemoryLaw s → step s = .next t → MemoryLaw t

/-- R58, R59: every step keeps the trigger queue within 16 WATCH entries, one EXPIRY entry for each timer, 24 entries in all
and a depth of at most 7. -/
def Obligations.StepsKeepTheQueueBounds : Prop :=
  ∀ s t : State, QueueLaw s → step s = .next t → QueueLaw t

/-- R2, R3, R4: every step keeps every watch lawful: a FREE watch cleared, every field inside its word, and the truth of an
ARMED watch that of its condition. -/
def Obligations.StepsKeepEveryWatchLawful : Prop :=
  ∀ s t : State, WatchLaw s → step s = .next t → WatchLaw t

/-- R30, R31, R79, R80, R87: every step keeps the quest table's laws: the step ranges, the bindings on both sides, the links
on both sides, and the depths, with what the work item in progress acts on. -/
def Obligations.StepsKeepTheQuestTableLawful : Prop :=
  ∀ s t : State, EngineLaw s → step s = .next t → EngineLaw t

/-- R171, law of the device: after every step INT is asserted exactly while a cause is both pending and enabled, and the
vector names the highest-numbered of them, or 0. -/
def Obligations.StepsKeepTheInterruptLaw : Prop :=
  ∀ s t : State, InterruptLaw s → step s = .next t → InterruptLaw t

/-- R174, R185, R188: every step keeps at most 8 notices held and every ring index in its ring. -/
def Obligations.StepsKeepTheRingIndexesInRange : Prop :=
  ∀ s t : State, RingLaw s → step s = .next t → RingLaw t

/-- R151: every step keeps the snoop stream within four entries, and a grant only while there is a place. -/
def Obligations.StepsKeepTheStreamBound : Prop :=
  ∀ s t : State, StreamLaw s → step s = .next t → StreamLaw t

/-- R147, R149, R160, R64: every step keeps a grant in progress to an access that its requester has outstanding, no grant
during the power-on hold, and a command's work item to its command. -/
def Obligations.StepsKeepGrantsToRequests : Prop :=
  ∀ s t : State, GrantLaw s → step s = .next t → GrantLaw t

/-- R6, R15: every step keeps the shadow of every ARMED watch, with the writes that the watch unit has yet to take, equal to
the field of the word that memory holds. -/
def Obligations.StepsKeepShadowsEqualToMemory : Prop :=
  ∀ s t : State, ShadowLaw s → step s = .next t → ShadowLaw t

/-- R140, R166, R167, R168: every step keeps the copies of the host-owned words, with the writes that their block has yet to
take, equal to the words that memory holds. -/
def Obligations.StepsKeepCopiesEqualToMemory : Prop :=
  ∀ s t : State, CopyLaw s → step s = .next t → CopyLaw t
end

