-- ==== Sys2Proof/Laws/Memory.lean ====
section
/-! SUPPORT. What the memory operations do: a byte read after a write, the bytes a write leaves alone, and the
canonical form that every write keeps. -/

namespace Sys2Proof.Machine

open Sys2Proof

/-! ### One byte -/

/-- A byte other than the one written reads as before. -/
theorem readByte_writeByte_of_ne (m : Memory) (a : Nat) (v : Byte) (x : Nat) (h : x ≠ a) :
    readByte (writeByte m a v) x = readByte m x := by
  induction m with
  | nil =>
    unfold writeByte
    split
    · rfl
    · simp [readByte, h]
  | cons c rest ih =>
    unfold writeByte
    split
    · split
      · rfl
      · simp [readByte, h]
    · split
      · rename_i _ hac
        split
        · simp [readByte, ← hac, h]
        · simp [readByte, ← hac, h]
      · simp [readByte, ih]

/-- Below the first listed address a memory in canonical form reads as unwritten. -/
theorem readByte_of_lt_all (m : Memory) (x : Nat) (h : ∀ c ∈ m, x < c.1) : readByte m x = Config.unwritten := by
  induction m with
  | nil => rfl
  | cons c rest ih =>
    have hx : x ≠ c.1 := Nat.ne_of_lt (h c (by simp))
    simp [readByte, hx]
    exact ih (fun d hd => h d (by simp [hd]))

/-- The byte written reads as what was written, in a memory in canonical form. -/
theorem readByte_writeByte_self (m : Memory) (hm : m.wf) (a : Nat) (v : Byte) :
    readByte (writeByte m a v) a = v := by
  induction m with
  | nil =>
    unfold writeByte
    split
    · rename_i hv; simp [readByte, hv]
    · simp [readByte]
  | cons c rest ih =>
    obtain ⟨hp, hne⟩ := hm
    rw [List.pairwise_cons] at hp
    have hrest : Memory.wf rest := ⟨hp.2, fun d hd => hne d (by simp [hd])⟩
    unfold writeByte
    split
    · rename_i hlt
      split
      · rename_i hv
        rw [hv]
        refine readByte_of_lt_all _ _ ?_
        intro d hd
        rcases List.mem_cons.mp hd with h | h
        · rw [h]; exact hlt
        · exact Nat.lt_trans hlt (hp.1 d h)
      · simp [readByte]
    · split
      · rename_i _ heq
        split
        · rename_i hv
          rw [hv]
          exact readByte_of_lt_all _ _ (fun d hd => by rw [heq]; exact hp.1 d hd)
        · simp [readByte]
      · rename_i _ hne'
        simp [readByte, hne', ih hrest]

/-- The addresses that a write of one byte can list. -/
theorem mem_writeByte (m : Memory) (a : Nat) (v : Byte) (c : Host.Cell) (h : c ∈ writeByte m a v) :
    c ∈ m ∨ (c = (a, v) ∧ v ≠ Config.unwritten) := by
  induction m with
  | nil =>
    unfold writeByte at h
    split at h
    · simp at h
    · rename_i hv; right; exact ⟨by simpa using h, hv⟩
  | cons d rest ih =>
    unfold writeByte at h
    split at h
    · split at h
      · exact .inl h
      · rename_i hv
        rcases List.mem_cons.mp h with h | h
        · exact .inr ⟨h, hv⟩
        · exact .inl h
    · split at h
      · split at h
        · exact .inl (by simp [h])
        · rename_i hv
          rcases List.mem_cons.mp h with h | h
          · exact .inr ⟨h, hv⟩
          · exact .inl (by simp [h])
      · rcases List.mem_cons.mp h with h | h
        · exact .inl (by simp [h])
        · rcases ih h with h | h
          · exact .inl (by simp [h])
          · exact .inr h

/-- A write of one byte keeps the canonical form. -/
theorem wf_writeByte (m : Memory) (hm : m.wf) (a : Nat) (v : Byte) : Memory.wf (writeByte m a v) := by
  refine ⟨?_, ?_⟩
  · induction m with
    | nil => unfold writeByte; split <;> simp
    | cons c rest ih =>
      obtain ⟨hp, hne⟩ := hm
      rw [List.pairwise_cons] at hp
      have hrest : Memory.wf rest := ⟨hp.2, fun d hd => hne d (by simp [hd])⟩
      unfold writeByte
      split
      · rename_i hlt
        split
        · exact List.pairwise_cons.mpr hp
        · refine List.pairwise_cons.mpr ⟨?_, List.pairwise_cons.mpr hp⟩
          intro d hd
          rcases List.mem_cons.mp hd with h | h
          · rw [h]; exact hlt
          · exact Nat.lt_trans hlt (hp.1 d h)
      · rename_i hnlt
        split
        · rename_i heq
          split
          · exact hp.2
          · exact List.pairwise_cons.mpr ⟨fun d hd => by simpa [heq] using hp.1 d hd, hp.2⟩
        · rename_i hne'
          refine List.pairwise_cons.mpr ⟨?_, ih hrest⟩
          intro d hd
          rcases mem_writeByte rest a v d hd with h | h
          · exact hp.1 d h
          · rw [h.1]
            exact Nat.lt_of_le_of_ne (Nat.le_of_not_lt hnlt) (fun e => hne' e.symm)
  · intro c hc
    rcases mem_writeByte m a v c hc with h | h
    · exact hm.2 c h
    · rw [h.1]; exact h.2

/-! ### Lanes and words -/

theorem wf_writeLane (m : Memory) (hm : m.wf) (a : Nat) (on : Bool) (v : Byte) :
    Memory.wf (writeLane m a on v) := by
  unfold writeLane
  split
  · exact wf_writeByte m hm a v
  · exact hm

/-- A write of lanes keeps the canonical form. -/
theorem wf_writeLanes (m : Memory) (hm : m.wf) (a : Nat) (l : Lanes) (w : Word) :
    Memory.wf (writeLanes m a l w) := by
  unfold writeLanes
  exact wf_writeLane _ (wf_writeLane _ (wf_writeLane _ (wf_writeLane _ hm _ _ _) _ _ _) _ _ _) _ _ _

/-- A write of a word keeps the canonical form. -/
theorem wf_writeWord (m : Memory) (hm : m.wf) (a : Nat) (w : Word) : Memory.wf (writeWord m a w) :=
  wf_writeLanes m hm a Lanes.all w

theorem readByte_writeLane_of_ne (m : Memory) (a : Nat) (on : Bool) (v : Byte) (x : Nat) (h : x ≠ a) :
    readByte (writeLane m a on v) x = readByte m x := by
  unfold writeLane
  split
  · exact readByte_writeByte_of_ne m a v x h
  · rfl

theorem readByte_writeLane_self (m : Memory) (hm : m.wf) (a : Nat) (on : Bool) (v : Byte) :
    readByte (writeLane m a on v) a = if on then v else readByte m a := by
  unfold writeLane
  split
  · exact readByte_writeByte_self m hm a v
  · rfl

/-- Bytes outside the word written read as before. -/
theorem readByte_writeLanes_outside (m : Memory) (a : Nat) (l : Lanes) (w : Word) (x : Nat)
    (h : x < a ∨ a + 4 ≤ x) : readByte (writeLanes m a l w) x = readByte m x := by
  unfold writeLanes
  rw [readByte_writeLane_of_ne _ _ _ _ _ (by omega), readByte_writeLane_of_ne _ _ _ _ _ (by omega),
    readByte_writeLane_of_ne _ _ _ _ _ (by omega), readByte_writeLane_of_ne _ _ _ _ _ (by omega)]

/-- Lane 0 after a write of lanes. -/
theorem readByte_writeLanes_zero (m : Memory) (hm : m.wf) (a : Nat) (l : Lanes) (w : Word) :
    readByte (writeLanes m a l w) a = if l.l0 then laneByte w 0 else readByte m a := by
  unfold writeLanes
  rw [readByte_writeLane_of_ne _ _ _ _ _ (by omega), readByte_writeLane_of_ne _ _ _ _ _ (by omega),
    readByte_writeLane_of_ne _ _ _ _ _ (by omega), readByte_writeLane_self _ hm]

/-- Lane 1 after a write of lanes. -/
theorem readByte_writeLanes_one (m : Memory) (hm : m.wf) (a : Nat) (l : Lanes) (w : Word) :
    readByte (writeLanes m a l w) (a + 1) = if l.l1 then laneByte w 1 else readByte m (a + 1) := by
  unfold writeLanes
  rw [readByte_writeLane_of_ne _ _ _ _ _ (by omega), readByte_writeLane_of_ne _ _ _ _ _ (by omega),
    readByte_writeLane_self _ (wf_writeLane _ hm _ _ _), readByte_writeLane_of_ne _ _ _ _ _ (by omega)]

/-- Lane 2 after a write of lanes. -/
theorem readByte_writeLanes_two (m : Memory) (hm : m.wf) (a : Nat) (l : Lanes) (w : Word) :
    readByte (writeLanes m a l w) (a + 2) = if l.l2 then laneByte w 2 else readByte m (a + 2) := by
  unfold writeLanes
  rw [readByte_writeLane_of_ne _ _ _ _ _ (by omega),
    readByte_writeLane_self _ (wf_writeLane _ (wf_writeLane _ hm _ _ _) _ _ _),
    readByte_writeLane_of_ne _ _ _ _ _ (by omega), readByte_writeLane_of_ne _ _ _ _ _ (by omega)]

/-- Lane 3 after a write of lanes. -/
theorem readByte_writeLanes_three (m : Memory) (hm : m.wf) (a : Nat) (l : Lanes) (w : Word) :
    readByte (writeLanes m a l w) (a + 3) = if l.l3 then laneByte w 3 else readByte m (a + 3) := by
  unfold writeLanes
  rw [readByte_writeLane_self _ (wf_writeLane _ (wf_writeLane _ (wf_writeLane _ hm _ _ _) _ _ _) _ _ _),
    readByte_writeLane_of_ne _ _ _ _ _ (by omega), readByte_writeLane_of_ne _ _ _ _ _ (by omega),
    readByte_writeLane_of_ne _ _ _ _ _ (by omega)]

/-- The four bytes of a word put together give the word. -/
theorem word_of_laneBytes (w : Word) :
    BitVec.ofNat 32
      ((laneByte w 0).toNat + 0x100 * (laneByte w 1).toNat + 0x10000 * (laneByte w 2).toNat
        + 0x1000000 * (laneByte w 3).toNat) = w := by
  apply BitVec.eq_of_toNat_eq
  have h := w.isLt
  simp only [laneByte, BitVec.extractLsb'_toNat, BitVec.toNat_ofNat, Nat.shiftRight_eq_div_pow]
  norm_num
  omega

/-- A word written reads back. -/
theorem readWord_writeWord_self (m : Memory) (hm : m.wf) (a : Nat) (w : Word) :
    readWord (writeWord m a w) a = w := by
  unfold readWord writeWord
  rw [readByte_writeLanes_zero m hm, readByte_writeLanes_one m hm, readByte_writeLanes_two m hm,
    readByte_writeLanes_three m hm]
  simpa [Lanes.all] using word_of_laneBytes w

/-- A word that a write of another word does not overlap reads as before. -/
theorem readWord_writeLanes_apart (m : Memory) (a b : Nat) (l : Lanes) (w : Word)
    (h : b + 4 ≤ a ∨ a + 4 ≤ b) : readWord (writeLanes m a l w) b = readWord m b := by
  unfold readWord
  rw [readByte_writeLanes_outside _ _ _ _ _ (by omega), readByte_writeLanes_outside _ _ _ _ _ (by omega),
    readByte_writeLanes_outside _ _ _ _ _ (by omega), readByte_writeLanes_outside _ _ _ _ _ (by omega)]

/-! ### Lanes of a merged word -/

theorem laneByte_merge_of_mask (l : Lanes) (old new : Word) (i : Nat) (b : Bool)
    (h : ∀ j, j < 8 → l.mask.getLsbD (8 * i + j) = b) (hi : i < 4) :
    laneByte (mergeLanes l old new) i = if b then laneByte new i else laneByte old i := by
  apply BitVec.eq_of_getLsbD_eq
  intro j hj
  have hm := h j hj
  have hlt : 8 * i + j < 32 := by omega
  rw [BitVec.getLsbD_eq_getElem hlt] at hm
  cases b <;> simp [laneByte, mergeLanes, hj, hm, hlt]

theorem laneByte_mergeLanes_zero (l : Lanes) (old new : Word) :
    laneByte (mergeLanes l old new) 0 = if l.l0 then laneByte new 0 else laneByte old 0 := by
  refine laneByte_merge_of_mask l old new 0 l.l0 ?_ (by decide)
  obtain ⟨a, b, c, d⟩ := l
  revert a b c d
  decide

theorem laneByte_mergeLanes_one (l : Lanes) (old new : Word) :
    laneByte (mergeLanes l old new) 1 = if l.l1 then laneByte new 1 else laneByte old 1 := by
  refine laneByte_merge_of_mask l old new 1 l.l1 ?_ (by decide)
  obtain ⟨a, b, c, d⟩ := l
  revert a b c d
  decide

theorem laneByte_mergeLanes_two (l : Lanes) (old new : Word) :
    laneByte (mergeLanes l old new) 2 = if l.l2 then laneByte new 2 else laneByte old 2 := by
  refine laneByte_merge_of_mask l old new 2 l.l2 ?_ (by decide)
  obtain ⟨a, b, c, d⟩ := l
  revert a b c d
  decide

theorem laneByte_mergeLanes_three (l : Lanes) (old new : Word) :
    laneByte (mergeLanes l old new) 3 = if l.l3 then laneByte new 3 else laneByte old 3 := by
  refine laneByte_merge_of_mask l old new 3 l.l3 ?_ (by decide)
  obtain ⟨a, b, c, d⟩ := l
  revert a b c d
  decide

/-- Lane `i` of a word read is the byte at its address. -/
theorem laneByte_readWord (m : Memory) (a i : Nat) (hi : i < 4) :
    laneByte (readWord m a) i = readByte m (a + i) := by
  apply BitVec.eq_of_toNat_eq
  have h0 := (readByte m a).isLt
  have h1 := (readByte m (a + 1)).isLt
  have h2 := (readByte m (a + 2)).isLt
  have h3 := (readByte m (a + 3)).isLt
  simp only [laneByte, readWord, BitVec.extractLsb'_toNat, BitVec.toNat_ofNat, Nat.shiftRight_eq_div_pow]
  interval_cases i <;> norm_num <;> omega

/-- R146: after a write of lanes the word holds the written lanes and keeps the others. -/
theorem readWord_writeLanes_self (m : Memory) (hm : m.wf) (a : Nat) (l : Lanes) (w : Word) :
    readWord (writeLanes m a l w) a = mergeLanes l (readWord m a) w := by
  rw [← word_of_laneBytes (mergeLanes l (readWord m a) w), laneByte_mergeLanes_zero, laneByte_mergeLanes_one,
    laneByte_mergeLanes_two, laneByte_mergeLanes_three, laneByte_readWord m a 0 (by decide),
    laneByte_readWord m a 1 (by decide), laneByte_readWord m a 2 (by decide),
    laneByte_readWord m a 3 (by decide)]
  unfold readWord
  rw [readByte_writeLanes_zero m hm, readByte_writeLanes_one m hm, readByte_writeLanes_two m hm,
    readByte_writeLanes_three m hm]
  rfl

end Sys2Proof.Machine
end

