-- ==== Sys2Proof/Laws/State.lean ====
section
/-! SUPPORT. The fields of the state after each named update: one lemma per field, so that no proof unfolds a record
update. -/

namespace Sys2Proof.Machine

open Sys2Proof

/-! ### updWatch -/

@[simp] theorem updWatch_pending (s : State) (w : Fin 64) (f : Watch → Watch) :
    (s.updWatch w f).pending = s.pending := rfl
@[simp] theorem updWatch_msz256 (s : State) (w : Fin 64) (f : Watch → Watch) :
    (s.updWatch w f).msz256 = s.msz256 := rfl
@[simp] theorem updWatch_cpselHigh (s : State) (w : Fin 64) (f : Watch → Watch) :
    (s.updWatch w f).cpselHigh = s.cpselHigh := rfl
@[simp] theorem updWatch_gameReset (s : State) (w : Fin 64) (f : Watch → Watch) :
    (s.updWatch w f).gameReset = s.gameReset := rfl
@[simp] theorem updWatch_mem (s : State) (w : Fin 64) (f : Watch → Watch) : (s.updWatch w f).mem = s.mem := rfl
@[simp] theorem updWatch_mpa (s : State) (w : Fin 64) (f : Watch → Watch) : (s.updWatch w f).mpa = s.mpa := rfl
@[simp] theorem updWatch_procPort (s : State) (w : Fin 64) (f : Watch → Watch) :
    (s.updWatch w f).procPort = s.procPort := rfl
@[simp] theorem updWatch_scanPort (s : State) (w : Fin 64) (f : Watch → Watch) :
    (s.updWatch w f).scanPort = s.scanPort := rfl
@[simp] theorem updWatch_stream (s : State) (w : Fin 64) (f : Watch → Watch) :
    (s.updWatch w f).stream = s.stream := rfl
@[simp] theorem updWatch_regions (s : State) (w : Fin 64) (f : Watch → Watch) :
    (s.updWatch w f).regions = s.regions := rfl
@[simp] theorem updWatch_pendingRegion (s : State) (w : Fin 64) (f : Watch → Watch) :
    (s.updWatch w f).pendingRegion = s.pendingRegion := rfl
@[simp] theorem updWatch_fault (s : State) (w : Fin 64) (f : Watch → Watch) : (s.updWatch w f).fault = s.fault := rfl
@[simp] theorem updWatch_reveal (s : State) (w : Fin 64) (f : Watch → Watch) :
    (s.updWatch w f).reveal = s.reveal := rfl
@[simp] theorem updWatch_page (s : State) (w : Fin 64) (f : Watch → Watch) : (s.updWatch w f).page = s.page := rfl
@[simp] theorem updWatch_cause (s : State) (w : Fin 64) (f : Watch → Watch) : (s.updWatch w f).cause = s.cause := rfl
@[simp] theorem updWatch_syncRead (s : State) (w : Fin 64) (f : Watch → Watch) :
    (s.updWatch w f).syncRead = s.syncRead := rfl
@[simp] theorem updWatch_watchReset (s : State) (w : Fin 64) (f : Watch → Watch) :
    (s.updWatch w f).watchReset = s.watchReset := rfl
@[simp] theorem updWatch_queue (s : State) (w : Fin 64) (f : Watch → Watch) : (s.updWatch w f).queue = s.queue := rfl
@[simp] theorem updWatch_quests (s : State) (w : Fin 64) (f : Watch → Watch) :
    (s.updWatch w f).quests = s.quests := rfl
@[simp] theorem updWatch_steps (s : State) (w : Fin 64) (f : Watch → Watch) : (s.updWatch w f).steps = s.steps := rfl
@[simp] theorem updWatch_work (s : State) (w : Fin 64) (f : Watch → Watch) : (s.updWatch w f).work = s.work := rfl
@[simp] theorem updWatch_effects (s : State) (w : Fin 64) (f : Watch → Watch) :
    (s.updWatch w f).effects = s.effects := rfl
@[simp] theorem updWatch_effectUnit (s : State) (w : Fin 64) (f : Watch → Watch) :
    (s.updWatch w f).effectUnit = s.effectUnit := rfl
@[simp] theorem updWatch_timers (s : State) (w : Fin 64) (f : Watch → Watch) :
    (s.updWatch w f).timers = s.timers := rfl
@[simp] theorem updWatch_beatOut (s : State) (w : Fin 64) (f : Watch → Watch) :
    (s.updWatch w f).beatOut = s.beatOut := rfl
@[simp] theorem updWatch_consumeIndex (s : State) (w : Fin 64) (f : Watch → Watch) :
    (s.updWatch w f).consumeIndex = s.consumeIndex := rfl
@[simp] theorem updWatch_cmd (s : State) (w : Fin 64) (f : Watch → Watch) : (s.updWatch w f).cmd = s.cmd := rfl
@[simp] theorem updWatch_notice (s : State) (w : Fin 64) (f : Watch → Watch) :
    (s.updWatch w f).notice = s.notice := rfl

/-! ### updQuest -/

@[simp] theorem updQuest_pending (s : State) (q : Fin 32) (f : Quest → Quest) :
    (s.updQuest q f).pending = s.pending := rfl
@[simp] theorem updQuest_msz256 (s : State) (q : Fin 32) (f : Quest → Quest) :
    (s.updQuest q f).msz256 = s.msz256 := rfl
@[simp] theorem updQuest_cpselHigh (s : State) (q : Fin 32) (f : Quest → Quest) :
    (s.updQuest q f).cpselHigh = s.cpselHigh := rfl
@[simp] theorem updQuest_gameReset (s : State) (q : Fin 32) (f : Quest → Quest) :
    (s.updQuest q f).gameReset = s.gameReset := rfl
@[simp] theorem updQuest_mem (s : State) (q : Fin 32) (f : Quest → Quest) : (s.updQuest q f).mem = s.mem := rfl
@[simp] theorem updQuest_mpa (s : State) (q : Fin 32) (f : Quest → Quest) : (s.updQuest q f).mpa = s.mpa := rfl
@[simp] theorem updQuest_procPort (s : State) (q : Fin 32) (f : Quest → Quest) :
    (s.updQuest q f).procPort = s.procPort := rfl
@[simp] theorem updQuest_scanPort (s : State) (q : Fin 32) (f : Quest → Quest) :
    (s.updQuest q f).scanPort = s.scanPort := rfl
@[simp] theorem updQuest_stream (s : State) (q : Fin 32) (f : Quest → Quest) :
    (s.updQuest q f).stream = s.stream := rfl
@[simp] theorem updQuest_regions (s : State) (q : Fin 32) (f : Quest → Quest) :
    (s.updQuest q f).regions = s.regions := rfl
@[simp] theorem updQuest_pendingRegion (s : State) (q : Fin 32) (f : Quest → Quest) :
    (s.updQuest q f).pendingRegion = s.pendingRegion := rfl
@[simp] theorem updQuest_fault (s : State) (q : Fin 32) (f : Quest → Quest) : (s.updQuest q f).fault = s.fault := rfl
@[simp] theorem updQuest_reveal (s : State) (q : Fin 32) (f : Quest → Quest) :
    (s.updQuest q f).reveal = s.reveal := rfl
@[simp] theorem updQuest_page (s : State) (q : Fin 32) (f : Quest → Quest) : (s.updQuest q f).page = s.page := rfl
@[simp] theorem updQuest_cause (s : State) (q : Fin 32) (f : Quest → Quest) : (s.updQuest q f).cause = s.cause := rfl
@[simp] theorem updQuest_watches (s : State) (q : Fin 32) (f : Quest → Quest) :
    (s.updQuest q f).watches = s.watches := rfl
@[simp] theorem updQuest_syncRead (s : State) (q : Fin 32) (f : Quest → Quest) :
    (s.updQuest q f).syncRead = s.syncRead := rfl
@[simp] theorem updQuest_watchReset (s : State) (q : Fin 32) (f : Quest → Quest) :
    (s.updQuest q f).watchReset = s.watchReset := rfl
@[simp] theorem updQuest_queue (s : State) (q : Fin 32) (f : Quest → Quest) : (s.updQuest q f).queue = s.queue := rfl
@[simp] theorem updQuest_steps (s : State) (q : Fin 32) (f : Quest → Quest) : (s.updQuest q f).steps = s.steps := rfl
@[simp] theorem updQuest_work (s : State) (q : Fin 32) (f : Quest → Quest) : (s.updQuest q f).work = s.work := rfl
@[simp] theorem updQuest_effects (s : State) (q : Fin 32) (f : Quest → Quest) :
    (s.updQuest q f).effects = s.effects := rfl
@[simp] theorem updQuest_effectUnit (s : State) (q : Fin 32) (f : Quest → Quest) :
    (s.updQuest q f).effectUnit = s.effectUnit := rfl
@[simp] theorem updQuest_timers (s : State) (q : Fin 32) (f : Quest → Quest) :
    (s.updQuest q f).timers = s.timers := rfl
@[simp] theorem updQuest_beatOut (s : State) (q : Fin 32) (f : Quest → Quest) :
    (s.updQuest q f).beatOut = s.beatOut := rfl
@[simp] theorem updQuest_consumeIndex (s : State) (q : Fin 32) (f : Quest → Quest) :
    (s.updQuest q f).consumeIndex = s.consumeIndex := rfl
@[simp] theorem updQuest_cmd (s : State) (q : Fin 32) (f : Quest → Quest) : (s.updQuest q f).cmd = s.cmd := rfl
@[simp] theorem updQuest_notice (s : State) (q : Fin 32) (f : Quest → Quest) :
    (s.updQuest q f).notice = s.notice := rfl

/-! ### updTimer -/

@[simp] theorem updTimer_pending (s : State) (t : Fin 8) (f : Timer → Timer) :
    (s.updTimer t f).pending = s.pending := rfl
@[simp] theorem updTimer_msz256 (s : State) (t : Fin 8) (f : Timer → Timer) :
    (s.updTimer t f).msz256 = s.msz256 := rfl
@[simp] theorem updTimer_cpselHigh (s : State) (t : Fin 8) (f : Timer → Timer) :
    (s.updTimer t f).cpselHigh = s.cpselHigh := rfl
@[simp] theorem updTimer_gameReset (s : State) (t : Fin 8) (f : Timer → Timer) :
    (s.updTimer t f).gameReset = s.gameReset := rfl
@[simp] theorem updTimer_mem (s : State) (t : Fin 8) (f : Timer → Timer) : (s.updTimer t f).mem = s.mem := rfl
@[simp] theorem updTimer_mpa (s : State) (t : Fin 8) (f : Timer → Timer) : (s.updTimer t f).mpa = s.mpa := rfl
@[simp] theorem updTimer_procPort (s : State) (t : Fin 8) (f : Timer → Timer) :
    (s.updTimer t f).procPort = s.procPort := rfl
@[simp] theorem updTimer_scanPort (s : State) (t : Fin 8) (f : Timer → Timer) :
    (s.updTimer t f).scanPort = s.scanPort := rfl
@[simp] theorem updTimer_stream (s : State) (t : Fin 8) (f : Timer → Timer) :
    (s.updTimer t f).stream = s.stream := rfl
@[simp] theorem updTimer_regions (s : State) (t : Fin 8) (f : Timer → Timer) :
    (s.updTimer t f).regions = s.regions := rfl
@[simp] theorem updTimer_pendingRegion (s : State) (t : Fin 8) (f : Timer → Timer) :
    (s.updTimer t f).pendingRegion = s.pendingRegion := rfl
@[simp] theorem updTimer_fault (s : State) (t : Fin 8) (f : Timer → Timer) : (s.updTimer t f).fault = s.fault := rfl
@[simp] theorem updTimer_reveal (s : State) (t : Fin 8) (f : Timer → Timer) :
    (s.updTimer t f).reveal = s.reveal := rfl
@[simp] theorem updTimer_page (s : State) (t : Fin 8) (f : Timer → Timer) : (s.updTimer t f).page = s.page := rfl
@[simp] theorem updTimer_cause (s : State) (t : Fin 8) (f : Timer → Timer) : (s.updTimer t f).cause = s.cause := rfl
@[simp] theorem updTimer_watches (s : State) (t : Fin 8) (f : Timer → Timer) :
    (s.updTimer t f).watches = s.watches := rfl
@[simp] theorem updTimer_syncRead (s : State) (t : Fin 8) (f : Timer → Timer) :
    (s.updTimer t f).syncRead = s.syncRead := rfl
@[simp] theorem updTimer_watchReset (s : State) (t : Fin 8) (f : Timer → Timer) :
    (s.updTimer t f).watchReset = s.watchReset := rfl
@[simp] theorem updTimer_queue (s : State) (t : Fin 8) (f : Timer → Timer) : (s.updTimer t f).queue = s.queue := rfl
@[simp] theorem updTimer_quests (s : State) (t : Fin 8) (f : Timer → Timer) :
    (s.updTimer t f).quests = s.quests := rfl
@[simp] theorem updTimer_steps (s : State) (t : Fin 8) (f : Timer → Timer) : (s.updTimer t f).steps = s.steps := rfl
@[simp] theorem updTimer_work (s : State) (t : Fin 8) (f : Timer → Timer) : (s.updTimer t f).work = s.work := rfl
@[simp] theorem updTimer_effects (s : State) (t : Fin 8) (f : Timer → Timer) :
    (s.updTimer t f).effects = s.effects := rfl
@[simp] theorem updTimer_effectUnit (s : State) (t : Fin 8) (f : Timer → Timer) :
    (s.updTimer t f).effectUnit = s.effectUnit := rfl
@[simp] theorem updTimer_beatOut (s : State) (t : Fin 8) (f : Timer → Timer) :
    (s.updTimer t f).beatOut = s.beatOut := rfl
@[simp] theorem updTimer_consumeIndex (s : State) (t : Fin 8) (f : Timer → Timer) :
    (s.updTimer t f).consumeIndex = s.consumeIndex := rfl
@[simp] theorem updTimer_cmd (s : State) (t : Fin 8) (f : Timer → Timer) : (s.updTimer t f).cmd = s.cmd := rfl
@[simp] theorem updTimer_notice (s : State) (t : Fin 8) (f : Timer → Timer) :
    (s.updTimer t f).notice = s.notice := rfl

/-! ### raise -/

@[simp] theorem raise_pending (s : State) (c : CauseSet) : (s.raise c).pending = s.pending := rfl
@[simp] theorem raise_msz256 (s : State) (c : CauseSet) : (s.raise c).msz256 = s.msz256 := rfl
@[simp] theorem raise_cpselHigh (s : State) (c : CauseSet) : (s.raise c).cpselHigh = s.cpselHigh := rfl
@[simp] theorem raise_gameReset (s : State) (c : CauseSet) : (s.raise c).gameReset = s.gameReset := rfl
@[simp] theorem raise_mem (s : State) (c : CauseSet) : (s.raise c).mem = s.mem := rfl
@[simp] theorem raise_mpa (s : State) (c : CauseSet) : (s.raise c).mpa = s.mpa := rfl
@[simp] theorem raise_procPort (s : State) (c : CauseSet) : (s.raise c).procPort = s.procPort := rfl
@[simp] theorem raise_scanPort (s : State) (c : CauseSet) : (s.raise c).scanPort = s.scanPort := rfl
@[simp] theorem raise_stream (s : State) (c : CauseSet) : (s.raise c).stream = s.stream := rfl
@[simp] theorem raise_regions (s : State) (c : CauseSet) : (s.raise c).regions = s.regions := rfl
@[simp] theorem raise_pendingRegion (s : State) (c : CauseSet) : (s.raise c).pendingRegion = s.pendingRegion := rfl
@[simp] theorem raise_fault (s : State) (c : CauseSet) : (s.raise c).fault = s.fault := rfl
@[simp] theorem raise_reveal (s : State) (c : CauseSet) : (s.raise c).reveal = s.reveal := rfl
@[simp] theorem raise_page (s : State) (c : CauseSet) : (s.raise c).page = s.page := rfl
@[simp] theorem raise_watches (s : State) (c : CauseSet) : (s.raise c).watches = s.watches := rfl
@[simp] theorem raise_syncRead (s : State) (c : CauseSet) : (s.raise c).syncRead = s.syncRead := rfl
@[simp] theorem raise_watchReset (s : State) (c : CauseSet) : (s.raise c).watchReset = s.watchReset := rfl
@[simp] theorem raise_queue (s : State) (c : CauseSet) : (s.raise c).queue = s.queue := rfl
@[simp] theorem raise_quests (s : State) (c : CauseSet) : (s.raise c).quests = s.quests := rfl
@[simp] theorem raise_steps (s : State) (c : CauseSet) : (s.raise c).steps = s.steps := rfl
@[simp] theorem raise_work (s : State) (c : CauseSet) : (s.raise c).work = s.work := rfl
@[simp] theorem raise_effects (s : State) (c : CauseSet) : (s.raise c).effects = s.effects := rfl
@[simp] theorem raise_effectUnit (s : State) (c : CauseSet) : (s.raise c).effectUnit = s.effectUnit := rfl
@[simp] theorem raise_timers (s : State) (c : CauseSet) : (s.raise c).timers = s.timers := rfl
@[simp] theorem raise_beatOut (s : State) (c : CauseSet) : (s.raise c).beatOut = s.beatOut := rfl
@[simp] theorem raise_consumeIndex (s : State) (c : CauseSet) : (s.raise c).consumeIndex = s.consumeIndex := rfl
@[simp] theorem raise_cmd (s : State) (c : CauseSet) : (s.raise c).cmd = s.cmd := rfl
@[simp] theorem raise_notice (s : State) (c : CauseSet) : (s.raise c).notice = s.notice := rfl

/-! ### recordFault -/

@[simp] theorem recordFault_pending (s : State) (w : Writer) (d : Direction) (a : Nat) :
    (s.recordFault w d a).pending = s.pending := rfl
@[simp] theorem recordFault_msz256 (s : State) (w : Writer) (d : Direction) (a : Nat) :
    (s.recordFault w d a).msz256 = s.msz256 := rfl
@[simp] theorem recordFault_cpselHigh (s : State) (w : Writer) (d : Direction) (a : Nat) :
    (s.recordFault w d a).cpselHigh = s.cpselHigh := rfl
@[simp] theorem recordFault_gameReset (s : State) (w : Writer) (d : Direction) (a : Nat) :
    (s.recordFault w d a).gameReset = s.gameReset := rfl
@[simp] theorem recordFault_mem (s : State) (w : Writer) (d : Direction) (a : Nat) :
    (s.recordFault w d a).mem = s.mem := rfl
@[simp] theorem recordFault_mpa (s : State) (w : Writer) (d : Direction) (a : Nat) :
    (s.recordFault w d a).mpa = s.mpa := rfl
@[simp] theorem recordFault_procPort (s : State) (w : Writer) (d : Direction) (a : Nat) :
    (s.recordFault w d a).procPort = s.procPort := rfl
@[simp] theorem recordFault_scanPort (s : State) (w : Writer) (d : Direction) (a : Nat) :
    (s.recordFault w d a).scanPort = s.scanPort := rfl
@[simp] theorem recordFault_stream (s : State) (w : Writer) (d : Direction) (a : Nat) :
    (s.recordFault w d a).stream = s.stream := rfl
@[simp] theorem recordFault_regions (s : State) (w : Writer) (d : Direction) (a : Nat) :
    (s.recordFault w d a).regions = s.regions := rfl
@[simp] theorem recordFault_pendingRegion (s : State) (w : Writer) (d : Direction) (a : Nat) :
    (s.recordFault w d a).pendingRegion = s.pendingRegion := rfl
@[simp] theorem recordFault_reveal (s : State) (w : Writer) (d : Direction) (a : Nat) :
    (s.recordFault w d a).reveal = s.reveal := rfl
@[simp] theorem recordFault_page (s : State) (w : Writer) (d : Direction) (a : Nat) :
    (s.recordFault w d a).page = s.page := rfl
@[simp] theorem recordFault_watches (s : State) (w : Writer) (d : Direction) (a : Nat) :
    (s.recordFault w d a).watches = s.watches := rfl
@[simp] theorem recordFault_syncRead (s : State) (w : Writer) (d : Direction) (a : Nat) :
    (s.recordFault w d a).syncRead = s.syncRead := rfl
@[simp] theorem recordFault_watchReset (s : State) (w : Writer) (d : Direction) (a : Nat) :
    (s.recordFault w d a).watchReset = s.watchReset := rfl
@[simp] theorem recordFault_queue (s : State) (w : Writer) (d : Direction) (a : Nat) :
    (s.recordFault w d a).queue = s.queue := rfl
@[simp] theorem recordFault_quests (s : State) (w : Writer) (d : Direction) (a : Nat) :
    (s.recordFault w d a).quests = s.quests := rfl
@[simp] theorem recordFault_steps (s : State) (w : Writer) (d : Direction) (a : Nat) :
    (s.recordFault w d a).steps = s.steps := rfl
@[simp] theorem recordFault_work (s : State) (w : Writer) (d : Direction) (a : Nat) :
    (s.recordFault w d a).work = s.work := rfl
@[simp] theorem recordFault_effects (s : State) (w : Writer) (d : Direction) (a : Nat) :
    (s.recordFault w d a).effects = s.effects := rfl
@[simp] theorem recordFault_effectUnit (s : State) (w : Writer) (d : Direction) (a : Nat) :
    (s.recordFault w d a).effectUnit = s.effectUnit := rfl
@[simp] theorem recordFault_timers (s : State) (w : Writer) (d : Direction) (a : Nat) :
    (s.recordFault w d a).timers = s.timers := rfl
@[simp] theorem recordFault_beatOut (s : State) (w : Writer) (d : Direction) (a : Nat) :
    (s.recordFault w d a).beatOut = s.beatOut := rfl
@[simp] theorem recordFault_consumeIndex (s : State) (w : Writer) (d : Direction) (a : Nat) :
    (s.recordFault w d a).consumeIndex = s.consumeIndex := rfl
@[simp] theorem recordFault_cmd (s : State) (w : Writer) (d : Direction) (a : Nat) :
    (s.recordFault w d a).cmd = s.cmd := rfl
@[simp] theorem recordFault_notice (s : State) (w : Writer) (d : Direction) (a : Nat) :
    (s.recordFault w d a).notice = s.notice := rfl

/-! ### setPort -/

@[simp] theorem setPort_pending (s : State) (m : Master) (p : MasterPort) :
    (s.setPort m p).pending = s.pending := by cases m <;> rfl
@[simp] theorem setPort_msz256 (s : State) (m : Master) (p : MasterPort) :
    (s.setPort m p).msz256 = s.msz256 := by cases m <;> rfl
@[simp] theorem setPort_cpselHigh (s : State) (m : Master) (p : MasterPort) :
    (s.setPort m p).cpselHigh = s.cpselHigh := by cases m <;> rfl
@[simp] theorem setPort_gameReset (s : State) (m : Master) (p : MasterPort) :
    (s.setPort m p).gameReset = s.gameReset := by cases m <;> rfl
@[simp] theorem setPort_mem (s : State) (m : Master) (p : MasterPort) :
    (s.setPort m p).mem = s.mem := by cases m <;> rfl
@[simp] theorem setPort_mpa (s : State) (m : Master) (p : MasterPort) :
    (s.setPort m p).mpa = s.mpa := by cases m <;> rfl
@[simp] theorem setPort_stream (s : State) (m : Master) (p : MasterPort) :
    (s.setPort m p).stream = s.stream := by cases m <;> rfl
@[simp] theorem setPort_regions (s : State) (m : Master) (p : MasterPort) :
    (s.setPort m p).regions = s.regions := by cases m <;> rfl
@[simp] theorem setPort_pendingRegion (s : State) (m : Master) (p : MasterPort) :
    (s.setPort m p).pendingRegion = s.pendingRegion := by cases m <;> rfl
@[simp] theorem setPort_fault (s : State) (m : Master) (p : MasterPort) :
    (s.setPort m p).fault = s.fault := by cases m <;> rfl
@[simp] theorem setPort_reveal (s : State) (m : Master) (p : MasterPort) :
    (s.setPort m p).reveal = s.reveal := by cases m <;> rfl
@[simp] theorem setPort_page (s : State) (m : Master) (p : MasterPort) :
    (s.setPort m p).page = s.page := by cases m <;> rfl
@[simp] theorem setPort_cause (s : State) (m : Master) (p : MasterPort) :
    (s.setPort m p).cause = s.cause := by cases m <;> rfl
@[simp] theorem setPort_watches (s : State) (m : Master) (p : MasterPort) :
    (s.setPort m p).watches = s.watches := by cases m <;> rfl
@[simp] theorem setPort_syncRead (s : State) (m : Master) (p : MasterPort) :
    (s.setPort m p).syncRead = s.syncRead := by cases m <;> rfl
@[simp] theorem setPort_watchReset (s : State) (m : Master) (p : MasterPort) :
    (s.setPort m p).watchReset = s.watchReset := by cases m <;> rfl
@[simp] theorem setPort_queue (s : State) (m : Master) (p : MasterPort) :
    (s.setPort m p).queue = s.queue := by cases m <;> rfl
@[simp] theorem setPort_quests (s : State) (m : Master) (p : MasterPort) :
    (s.setPort m p).quests = s.quests := by cases m <;> rfl
@[simp] theorem setPort_steps (s : State) (m : Master) (p : MasterPort) :
    (s.setPort m p).steps = s.steps := by cases m <;> rfl
@[simp] theorem setPort_work (s : State) (m : Master) (p : MasterPort) :
    (s.setPort m p).work = s.work := by cases m <;> rfl
@[simp] theorem setPort_effects (s : State) (m : Master) (p : MasterPort) :
    (s.setPort m p).effects = s.effects := by cases m <;> rfl
@[simp] theorem setPort_effectUnit (s : State) (m : Master) (p : MasterPort) :
    (s.setPort m p).effectUnit = s.effectUnit := by cases m <;> rfl
@[simp] theorem setPort_timers (s : State) (m : Master) (p : MasterPort) :
    (s.setPort m p).timers = s.timers := by cases m <;> rfl
@[simp] theorem setPort_beatOut (s : State) (m : Master) (p : MasterPort) :
    (s.setPort m p).beatOut = s.beatOut := by cases m <;> rfl
@[simp] theorem setPort_consumeIndex (s : State) (m : Master) (p : MasterPort) :
    (s.setPort m p).consumeIndex = s.consumeIndex := by cases m <;> rfl
@[simp] theorem setPort_cmd (s : State) (m : Master) (p : MasterPort) :
    (s.setPort m p).cmd = s.cmd := by cases m <;> rfl
@[simp] theorem setPort_notice (s : State) (m : Master) (p : MasterPort) :
    (s.setPort m p).notice = s.notice := by cases m <;> rfl

/-! ### pushStream -/

@[simp] theorem pushStream_pending (s : State) (b : StreamBody) : (s.pushStream b).pending = s.pending := rfl
@[simp] theorem pushStream_msz256 (s : State) (b : StreamBody) : (s.pushStream b).msz256 = s.msz256 := rfl
@[simp] theorem pushStream_cpselHigh (s : State) (b : StreamBody) : (s.pushStream b).cpselHigh = s.cpselHigh := rfl
@[simp] theorem pushStream_gameReset (s : State) (b : StreamBody) : (s.pushStream b).gameReset = s.gameReset := rfl
@[simp] theorem pushStream_mem (s : State) (b : StreamBody) : (s.pushStream b).mem = s.mem := rfl
@[simp] theorem pushStream_mpa (s : State) (b : StreamBody) : (s.pushStream b).mpa = s.mpa := rfl
@[simp] theorem pushStream_procPort (s : State) (b : StreamBody) : (s.pushStream b).procPort = s.procPort := rfl
@[simp] theorem pushStream_scanPort (s : State) (b : StreamBody) : (s.pushStream b).scanPort = s.scanPort := rfl
@[simp] theorem pushStream_regions (s : State) (b : StreamBody) : (s.pushStream b).regions = s.regions := rfl
@[simp] theorem pushStream_pendingRegion (s : State) (b : StreamBody) :
    (s.pushStream b).pendingRegion = s.pendingRegion := rfl
@[simp] theorem pushStream_fault (s : State) (b : StreamBody) : (s.pushStream b).fault = s.fault := rfl
@[simp] theorem pushStream_reveal (s : State) (b : StreamBody) : (s.pushStream b).reveal = s.reveal := rfl
@[simp] theorem pushStream_page (s : State) (b : StreamBody) : (s.pushStream b).page = s.page := rfl
@[simp] theorem pushStream_cause (s : State) (b : StreamBody) : (s.pushStream b).cause = s.cause := rfl
@[simp] theorem pushStream_watches (s : State) (b : StreamBody) : (s.pushStream b).watches = s.watches := rfl
@[simp] theorem pushStream_syncRead (s : State) (b : StreamBody) : (s.pushStream b).syncRead = s.syncRead := rfl
@[simp] theorem pushStream_watchReset (s : State) (b : StreamBody) : (s.pushStream b).watchReset = s.watchReset := rfl
@[simp] theorem pushStream_queue (s : State) (b : StreamBody) : (s.pushStream b).queue = s.queue := rfl
@[simp] theorem pushStream_quests (s : State) (b : StreamBody) : (s.pushStream b).quests = s.quests := rfl
@[simp] theorem pushStream_steps (s : State) (b : StreamBody) : (s.pushStream b).steps = s.steps := rfl
@[simp] theorem pushStream_work (s : State) (b : StreamBody) : (s.pushStream b).work = s.work := rfl
@[simp] theorem pushStream_effects (s : State) (b : StreamBody) : (s.pushStream b).effects = s.effects := rfl
@[simp] theorem pushStream_effectUnit (s : State) (b : StreamBody) : (s.pushStream b).effectUnit = s.effectUnit := rfl
@[simp] theorem pushStream_timers (s : State) (b : StreamBody) : (s.pushStream b).timers = s.timers := rfl
@[simp] theorem pushStream_beatOut (s : State) (b : StreamBody) : (s.pushStream b).beatOut = s.beatOut := rfl
@[simp] theorem pushStream_consumeIndex (s : State) (b : StreamBody) :
    (s.pushStream b).consumeIndex = s.consumeIndex := rfl
@[simp] theorem pushStream_cmd (s : State) (b : StreamBody) : (s.pushStream b).cmd = s.cmd := rfl
@[simp] theorem pushStream_notice (s : State) (b : StreamBody) : (s.pushStream b).notice = s.notice := rfl

/-! ### takeFor -/

@[simp] theorem takeFor_pending (s : State) (b : Snooper) : (s.takeFor b).pending = s.pending := rfl
@[simp] theorem takeFor_msz256 (s : State) (b : Snooper) : (s.takeFor b).msz256 = s.msz256 := rfl
@[simp] theorem takeFor_cpselHigh (s : State) (b : Snooper) : (s.takeFor b).cpselHigh = s.cpselHigh := rfl
@[simp] theorem takeFor_gameReset (s : State) (b : Snooper) : (s.takeFor b).gameReset = s.gameReset := rfl
@[simp] theorem takeFor_mem (s : State) (b : Snooper) : (s.takeFor b).mem = s.mem := rfl
@[simp] theorem takeFor_mpa (s : State) (b : Snooper) : (s.takeFor b).mpa = s.mpa := rfl
@[simp] theorem takeFor_procPort (s : State) (b : Snooper) : (s.takeFor b).procPort = s.procPort := rfl
@[simp] theorem takeFor_scanPort (s : State) (b : Snooper) : (s.takeFor b).scanPort = s.scanPort := rfl
@[simp] theorem takeFor_regions (s : State) (b : Snooper) : (s.takeFor b).regions = s.regions := rfl
@[simp] theorem takeFor_pendingRegion (s : State) (b : Snooper) : (s.takeFor b).pendingRegion = s.pendingRegion := rfl
@[simp] theorem takeFor_fault (s : State) (b : Snooper) : (s.takeFor b).fault = s.fault := rfl
@[simp] theorem takeFor_reveal (s : State) (b : Snooper) : (s.takeFor b).reveal = s.reveal := rfl
@[simp] theorem takeFor_page (s : State) (b : Snooper) : (s.takeFor b).page = s.page := rfl
@[simp] theorem takeFor_cause (s : State) (b : Snooper) : (s.takeFor b).cause = s.cause := rfl
@[simp] theorem takeFor_watches (s : State) (b : Snooper) : (s.takeFor b).watches = s.watches := rfl
@[simp] theorem takeFor_syncRead (s : State) (b : Snooper) : (s.takeFor b).syncRead = s.syncRead := rfl
@[simp] theorem takeFor_watchReset (s : State) (b : Snooper) : (s.takeFor b).watchReset = s.watchReset := rfl
@[simp] theorem takeFor_queue (s : State) (b : Snooper) : (s.takeFor b).queue = s.queue := rfl
@[simp] theorem takeFor_quests (s : State) (b : Snooper) : (s.takeFor b).quests = s.quests := rfl
@[simp] theorem takeFor_steps (s : State) (b : Snooper) : (s.takeFor b).steps = s.steps := rfl
@[simp] theorem takeFor_work (s : State) (b : Snooper) : (s.takeFor b).work = s.work := rfl
@[simp] theorem takeFor_effects (s : State) (b : Snooper) : (s.takeFor b).effects = s.effects := rfl
@[simp] theorem takeFor_effectUnit (s : State) (b : Snooper) : (s.takeFor b).effectUnit = s.effectUnit := rfl
@[simp] theorem takeFor_timers (s : State) (b : Snooper) : (s.takeFor b).timers = s.timers := rfl
@[simp] theorem takeFor_beatOut (s : State) (b : Snooper) : (s.takeFor b).beatOut = s.beatOut := rfl
@[simp] theorem takeFor_consumeIndex (s : State) (b : Snooper) : (s.takeFor b).consumeIndex = s.consumeIndex := rfl
@[simp] theorem takeFor_cmd (s : State) (b : Snooper) : (s.takeFor b).cmd = s.cmd := rfl
@[simp] theorem takeFor_notice (s : State) (b : Snooper) : (s.takeFor b).notice = s.notice := rfl

/-! ### partWrite -/

@[simp] theorem partWrite_pending (s : State) (a : Nat) (w : Word) : (s.partWrite a w).pending = s.pending := rfl
@[simp] theorem partWrite_msz256 (s : State) (a : Nat) (w : Word) : (s.partWrite a w).msz256 = s.msz256 := rfl
@[simp] theorem partWrite_cpselHigh (s : State) (a : Nat) (w : Word) :
    (s.partWrite a w).cpselHigh = s.cpselHigh := rfl
@[simp] theorem partWrite_gameReset (s : State) (a : Nat) (w : Word) :
    (s.partWrite a w).gameReset = s.gameReset := rfl
@[simp] theorem partWrite_mpa (s : State) (a : Nat) (w : Word) : (s.partWrite a w).mpa = s.mpa := rfl
@[simp] theorem partWrite_procPort (s : State) (a : Nat) (w : Word) : (s.partWrite a w).procPort = s.procPort := rfl
@[simp] theorem partWrite_scanPort (s : State) (a : Nat) (w : Word) : (s.partWrite a w).scanPort = s.scanPort := rfl
@[simp] theorem partWrite_regions (s : State) (a : Nat) (w : Word) : (s.partWrite a w).regions = s.regions := rfl
@[simp] theorem partWrite_pendingRegion (s : State) (a : Nat) (w : Word) :
    (s.partWrite a w).pendingRegion = s.pendingRegion := rfl
@[simp] theorem partWrite_fault (s : State) (a : Nat) (w : Word) : (s.partWrite a w).fault = s.fault := rfl
@[simp] theorem partWrite_reveal (s : State) (a : Nat) (w : Word) : (s.partWrite a w).reveal = s.reveal := rfl
@[simp] theorem partWrite_page (s : State) (a : Nat) (w : Word) : (s.partWrite a w).page = s.page := rfl
@[simp] theorem partWrite_cause (s : State) (a : Nat) (w : Word) : (s.partWrite a w).cause = s.cause := rfl
@[simp] theorem partWrite_watches (s : State) (a : Nat) (w : Word) : (s.partWrite a w).watches = s.watches := rfl
@[simp] theorem partWrite_syncRead (s : State) (a : Nat) (w : Word) : (s.partWrite a w).syncRead = s.syncRead := rfl
@[simp] theorem partWrite_watchReset (s : State) (a : Nat) (w : Word) : (s.partWrite a w).watchReset = s.watchReset := rfl
@[simp] theorem partWrite_queue (s : State) (a : Nat) (w : Word) : (s.partWrite a w).queue = s.queue := rfl
@[simp] theorem partWrite_quests (s : State) (a : Nat) (w : Word) : (s.partWrite a w).quests = s.quests := rfl
@[simp] theorem partWrite_steps (s : State) (a : Nat) (w : Word) : (s.partWrite a w).steps = s.steps := rfl
@[simp] theorem partWrite_work (s : State) (a : Nat) (w : Word) : (s.partWrite a w).work = s.work := rfl
@[simp] theorem partWrite_effects (s : State) (a : Nat) (w : Word) : (s.partWrite a w).effects = s.effects := rfl
@[simp] theorem partWrite_effectUnit (s : State) (a : Nat) (w : Word) :
    (s.partWrite a w).effectUnit = s.effectUnit := rfl
@[simp] theorem partWrite_timers (s : State) (a : Nat) (w : Word) : (s.partWrite a w).timers = s.timers := rfl
@[simp] theorem partWrite_beatOut (s : State) (a : Nat) (w : Word) : (s.partWrite a w).beatOut = s.beatOut := rfl
@[simp] theorem partWrite_consumeIndex (s : State) (a : Nat) (w : Word) :
    (s.partWrite a w).consumeIndex = s.consumeIndex := rfl
@[simp] theorem partWrite_cmd (s : State) (a : Nat) (w : Word) : (s.partWrite a w).cmd = s.cmd := rfl
@[simp] theorem partWrite_notice (s : State) (a : Nat) (w : Word) : (s.partWrite a w).notice = s.notice := rfl

/-! ### endIRGrant -/

@[simp] theorem endIRGrant_pending (s : State) : (s.endIRGrant).pending = s.pending := rfl
@[simp] theorem endIRGrant_msz256 (s : State) : (s.endIRGrant).msz256 = s.msz256 := rfl
@[simp] theorem endIRGrant_cpselHigh (s : State) : (s.endIRGrant).cpselHigh = s.cpselHigh := rfl
@[simp] theorem endIRGrant_gameReset (s : State) : (s.endIRGrant).gameReset = s.gameReset := rfl
@[simp] theorem endIRGrant_mem (s : State) : (s.endIRGrant).mem = s.mem := rfl
@[simp] theorem endIRGrant_procPort (s : State) : (s.endIRGrant).procPort = s.procPort := rfl
@[simp] theorem endIRGrant_scanPort (s : State) : (s.endIRGrant).scanPort = s.scanPort := rfl
@[simp] theorem endIRGrant_stream (s : State) : (s.endIRGrant).stream = s.stream := rfl
@[simp] theorem endIRGrant_regions (s : State) : (s.endIRGrant).regions = s.regions := rfl
@[simp] theorem endIRGrant_pendingRegion (s : State) : (s.endIRGrant).pendingRegion = s.pendingRegion := rfl
@[simp] theorem endIRGrant_fault (s : State) : (s.endIRGrant).fault = s.fault := rfl
@[simp] theorem endIRGrant_reveal (s : State) : (s.endIRGrant).reveal = s.reveal := rfl
@[simp] theorem endIRGrant_page (s : State) : (s.endIRGrant).page = s.page := rfl
@[simp] theorem endIRGrant_cause (s : State) : (s.endIRGrant).cause = s.cause := rfl
@[simp] theorem endIRGrant_watches (s : State) : (s.endIRGrant).watches = s.watches := rfl
@[simp] theorem endIRGrant_syncRead (s : State) : (s.endIRGrant).syncRead = s.syncRead := rfl
@[simp] theorem endIRGrant_watchReset (s : State) : (s.endIRGrant).watchReset = s.watchReset := rfl
@[simp] theorem endIRGrant_queue (s : State) : (s.endIRGrant).queue = s.queue := rfl
@[simp] theorem endIRGrant_quests (s : State) : (s.endIRGrant).quests = s.quests := rfl
@[simp] theorem endIRGrant_steps (s : State) : (s.endIRGrant).steps = s.steps := rfl
@[simp] theorem endIRGrant_work (s : State) : (s.endIRGrant).work = s.work := rfl
@[simp] theorem endIRGrant_effects (s : State) : (s.endIRGrant).effects = s.effects := rfl
@[simp] theorem endIRGrant_effectUnit (s : State) : (s.endIRGrant).effectUnit = s.effectUnit := rfl
@[simp] theorem endIRGrant_timers (s : State) : (s.endIRGrant).timers = s.timers := rfl
@[simp] theorem endIRGrant_beatOut (s : State) : (s.endIRGrant).beatOut = s.beatOut := rfl
@[simp] theorem endIRGrant_consumeIndex (s : State) : (s.endIRGrant).consumeIndex = s.consumeIndex := rfl
@[simp] theorem endIRGrant_cmd (s : State) : (s.endIRGrant).cmd = s.cmd := rfl
@[simp] theorem endIRGrant_notice (s : State) : (s.endIRGrant).notice = s.notice := rfl

/-! ### endMasterGrant -/

@[simp] theorem endMasterGrant_pending (s : State) (m : Master) (d : Word) :
    (s.endMasterGrant m d).pending = s.pending := by cases m <;> rfl
@[simp] theorem endMasterGrant_msz256 (s : State) (m : Master) (d : Word) :
    (s.endMasterGrant m d).msz256 = s.msz256 := by cases m <;> rfl
@[simp] theorem endMasterGrant_cpselHigh (s : State) (m : Master) (d : Word) :
    (s.endMasterGrant m d).cpselHigh = s.cpselHigh := by cases m <;> rfl
@[simp] theorem endMasterGrant_gameReset (s : State) (m : Master) (d : Word) :
    (s.endMasterGrant m d).gameReset = s.gameReset := by cases m <;> rfl
@[simp] theorem endMasterGrant_mem (s : State) (m : Master) (d : Word) :
    (s.endMasterGrant m d).mem = s.mem := by cases m <;> rfl
@[simp] theorem endMasterGrant_stream (s : State) (m : Master) (d : Word) :
    (s.endMasterGrant m d).stream = s.stream := by cases m <;> rfl
@[simp] theorem endMasterGrant_regions (s : State) (m : Master) (d : Word) :
    (s.endMasterGrant m d).regions = s.regions := by cases m <;> rfl
@[simp] theorem endMasterGrant_pendingRegion (s : State) (m : Master) (d : Word) :
    (s.endMasterGrant m d).pendingRegion = s.pendingRegion := by cases m <;> rfl
@[simp] theorem endMasterGrant_fault (s : State) (m : Master) (d : Word) :
    (s.endMasterGrant m d).fault = s.fault := by cases m <;> rfl
@[simp] theorem endMasterGrant_reveal (s : State) (m : Master) (d : Word) :
    (s.endMasterGrant m d).reveal = s.reveal := by cases m <;> rfl
@[simp] theorem endMasterGrant_page (s : State) (m : Master) (d : Word) :
    (s.endMasterGrant m d).page = s.page := by cases m <;> rfl
@[simp] theorem endMasterGrant_cause (s : State) (m : Master) (d : Word) :
    (s.endMasterGrant m d).cause = s.cause := by cases m <;> rfl
@[simp] theorem endMasterGrant_watches (s : State) (m : Master) (d : Word) :
    (s.endMasterGrant m d).watches = s.watches := by cases m <;> rfl
@[simp] theorem endMasterGrant_syncRead (s : State) (m : Master) (d : Word) :
    (s.endMasterGrant m d).syncRead = s.syncRead := by cases m <;> rfl
@[simp] theorem endMasterGrant_watchReset (s : State) (m : Master) (d : Word) :
    (s.endMasterGrant m d).watchReset = s.watchReset := by cases m <;> rfl
@[simp] theorem endMasterGrant_queue (s : State) (m : Master) (d : Word) :
    (s.endMasterGrant m d).queue = s.queue := by cases m <;> rfl
@[simp] theorem endMasterGrant_quests (s : State) (m : Master) (d : Word) :
    (s.endMasterGrant m d).quests = s.quests := by cases m <;> rfl
@[simp] theorem endMasterGrant_steps (s : State) (m : Master) (d : Word) :
    (s.endMasterGrant m d).steps = s.steps := by cases m <;> rfl
@[simp] theorem endMasterGrant_work (s : State) (m : Master) (d : Word) :
    (s.endMasterGrant m d).work = s.work := by cases m <;> rfl
@[simp] theorem endMasterGrant_effects (s : State) (m : Master) (d : Word) :
    (s.endMasterGrant m d).effects = s.effects := by cases m <;> rfl
@[simp] theorem endMasterGrant_effectUnit (s : State) (m : Master) (d : Word) :
    (s.endMasterGrant m d).effectUnit = s.effectUnit := by cases m <;> rfl
@[simp] theorem endMasterGrant_timers (s : State) (m : Master) (d : Word) :
    (s.endMasterGrant m d).timers = s.timers := by cases m <;> rfl
@[simp] theorem endMasterGrant_beatOut (s : State) (m : Master) (d : Word) :
    (s.endMasterGrant m d).beatOut = s.beatOut := by cases m <;> rfl
@[simp] theorem endMasterGrant_consumeIndex (s : State) (m : Master) (d : Word) :
    (s.endMasterGrant m d).consumeIndex = s.consumeIndex := by cases m <;> rfl
@[simp] theorem endMasterGrant_cmd (s : State) (m : Master) (d : Word) :
    (s.endMasterGrant m d).cmd = s.cmd := by cases m <;> rfl
@[simp] theorem endMasterGrant_notice (s : State) (m : Master) (d : Word) :
    (s.endMasterGrant m d).notice = s.notice := by cases m <;> rfl

/-! ### report -/

@[simp] theorem report_pending (s : State) (st : Status) (rs : List Word) :
    (s.report st rs).pending = s.pending := rfl
@[simp] theorem report_msz256 (s : State) (st : Status) (rs : List Word) : (s.report st rs).msz256 = s.msz256 := rfl
@[simp] theorem report_cpselHigh (s : State) (st : Status) (rs : List Word) :
    (s.report st rs).cpselHigh = s.cpselHigh := rfl
@[simp] theorem report_gameReset (s : State) (st : Status) (rs : List Word) :
    (s.report st rs).gameReset = s.gameReset := rfl
@[simp] theorem report_mem (s : State) (st : Status) (rs : List Word) : (s.report st rs).mem = s.mem := rfl
@[simp] theorem report_mpa (s : State) (st : Status) (rs : List Word) : (s.report st rs).mpa = s.mpa := rfl
@[simp] theorem report_procPort (s : State) (st : Status) (rs : List Word) :
    (s.report st rs).procPort = s.procPort := rfl
@[simp] theorem report_scanPort (s : State) (st : Status) (rs : List Word) :
    (s.report st rs).scanPort = s.scanPort := rfl
@[simp] theorem report_stream (s : State) (st : Status) (rs : List Word) : (s.report st rs).stream = s.stream := rfl
@[simp] theorem report_regions (s : State) (st : Status) (rs : List Word) :
    (s.report st rs).regions = s.regions := rfl
@[simp] theorem report_pendingRegion (s : State) (st : Status) (rs : List Word) :
    (s.report st rs).pendingRegion = s.pendingRegion := rfl
@[simp] theorem report_fault (s : State) (st : Status) (rs : List Word) : (s.report st rs).fault = s.fault := rfl
@[simp] theorem report_reveal (s : State) (st : Status) (rs : List Word) : (s.report st rs).reveal = s.reveal := rfl
@[simp] theorem report_page (s : State) (st : Status) (rs : List Word) : (s.report st rs).page = s.page := rfl
@[simp] theorem report_cause (s : State) (st : Status) (rs : List Word) : (s.report st rs).cause = s.cause := rfl
@[simp] theorem report_watches (s : State) (st : Status) (rs : List Word) :
    (s.report st rs).watches = s.watches := rfl
@[simp] theorem report_syncRead (s : State) (st : Status) (rs : List Word) :
    (s.report st rs).syncRead = s.syncRead := rfl
@[simp] theorem report_watchReset (s : State) (st : Status) (rs : List Word) :
    (s.report st rs).watchReset = s.watchReset := rfl
@[simp] theorem report_queue (s : State) (st : Status) (rs : List Word) : (s.report st rs).queue = s.queue := rfl
@[simp] theorem report_quests (s : State) (st : Status) (rs : List Word) : (s.report st rs).quests = s.quests := rfl
@[simp] theorem report_steps (s : State) (st : Status) (rs : List Word) : (s.report st rs).steps = s.steps := rfl
@[simp] theorem report_work (s : State) (st : Status) (rs : List Word) : (s.report st rs).work = s.work := rfl
@[simp] theorem report_effects (s : State) (st : Status) (rs : List Word) :
    (s.report st rs).effects = s.effects := rfl
@[simp] theorem report_effectUnit (s : State) (st : Status) (rs : List Word) :
    (s.report st rs).effectUnit = s.effectUnit := rfl
@[simp] theorem report_timers (s : State) (st : Status) (rs : List Word) : (s.report st rs).timers = s.timers := rfl
@[simp] theorem report_beatOut (s : State) (st : Status) (rs : List Word) :
    (s.report st rs).beatOut = s.beatOut := rfl
@[simp] theorem report_consumeIndex (s : State) (st : Status) (rs : List Word) :
    (s.report st rs).consumeIndex = s.consumeIndex := rfl
@[simp] theorem report_notice (s : State) (st : Status) (rs : List Word) : (s.report st rs).notice = s.notice := rfl

/-! ### takeCommand -/

@[simp] theorem takeCommand_pending (s : State) :
    (s.takeCommand).pending = s.pending := by unfold State.takeCommand; cases s.cmd <;> rfl
@[simp] theorem takeCommand_msz256 (s : State) :
    (s.takeCommand).msz256 = s.msz256 := by unfold State.takeCommand; cases s.cmd <;> rfl
@[simp] theorem takeCommand_cpselHigh (s : State) :
    (s.takeCommand).cpselHigh = s.cpselHigh := by unfold State.takeCommand; cases s.cmd <;> rfl
@[simp] theorem takeCommand_gameReset (s : State) :
    (s.takeCommand).gameReset = s.gameReset := by unfold State.takeCommand; cases s.cmd <;> rfl
@[simp] theorem takeCommand_mem (s : State) :
    (s.takeCommand).mem = s.mem := by unfold State.takeCommand; cases s.cmd <;> rfl
@[simp] theorem takeCommand_mpa (s : State) :
    (s.takeCommand).mpa = s.mpa := by unfold State.takeCommand; cases s.cmd <;> rfl
@[simp] theorem takeCommand_procPort (s : State) :
    (s.takeCommand).procPort = s.procPort := by unfold State.takeCommand; cases s.cmd <;> rfl
@[simp] theorem takeCommand_scanPort (s : State) :
    (s.takeCommand).scanPort = s.scanPort := by unfold State.takeCommand; cases s.cmd <;> rfl
@[simp] theorem takeCommand_stream (s : State) :
    (s.takeCommand).stream = s.stream := by unfold State.takeCommand; cases s.cmd <;> rfl
@[simp] theorem takeCommand_regions (s : State) :
    (s.takeCommand).regions = s.regions := by unfold State.takeCommand; cases s.cmd <;> rfl
@[simp] theorem takeCommand_pendingRegion (s : State) :
    (s.takeCommand).pendingRegion = s.pendingRegion := by unfold State.takeCommand; cases s.cmd <;> rfl
@[simp] theorem takeCommand_fault (s : State) :
    (s.takeCommand).fault = s.fault := by unfold State.takeCommand; cases s.cmd <;> rfl
@[simp] theorem takeCommand_reveal (s : State) :
    (s.takeCommand).reveal = s.reveal := by unfold State.takeCommand; cases s.cmd <;> rfl
@[simp] theorem takeCommand_page (s : State) :
    (s.takeCommand).page = s.page := by unfold State.takeCommand; cases s.cmd <;> rfl
@[simp] theorem takeCommand_cause (s : State) :
    (s.takeCommand).cause = s.cause := by unfold State.takeCommand; cases s.cmd <;> rfl
@[simp] theorem takeCommand_watches (s : State) :
    (s.takeCommand).watches = s.watches := by unfold State.takeCommand; cases s.cmd <;> rfl
@[simp] theorem takeCommand_syncRead (s : State) :
    (s.takeCommand).syncRead = s.syncRead := by unfold State.takeCommand; cases s.cmd <;> rfl
@[simp] theorem takeCommand_watchReset (s : State) :
    (s.takeCommand).watchReset = s.watchReset := by unfold State.takeCommand; cases s.cmd <;> rfl
@[simp] theorem takeCommand_queue (s : State) :
    (s.takeCommand).queue = s.queue := by unfold State.takeCommand; cases s.cmd <;> rfl
@[simp] theorem takeCommand_quests (s : State) :
    (s.takeCommand).quests = s.quests := by unfold State.takeCommand; cases s.cmd <;> rfl
@[simp] theorem takeCommand_steps (s : State) :
    (s.takeCommand).steps = s.steps := by unfold State.takeCommand; cases s.cmd <;> rfl
@[simp] theorem takeCommand_work (s : State) :
    (s.takeCommand).work = s.work := by unfold State.takeCommand; cases s.cmd <;> rfl
@[simp] theorem takeCommand_effects (s : State) :
    (s.takeCommand).effects = s.effects := by unfold State.takeCommand; cases s.cmd <;> rfl
@[simp] theorem takeCommand_effectUnit (s : State) :
    (s.takeCommand).effectUnit = s.effectUnit := by unfold State.takeCommand; cases s.cmd <;> rfl
@[simp] theorem takeCommand_timers (s : State) :
    (s.takeCommand).timers = s.timers := by unfold State.takeCommand; cases s.cmd <;> rfl
@[simp] theorem takeCommand_beatOut (s : State) :
    (s.takeCommand).beatOut = s.beatOut := by unfold State.takeCommand; cases s.cmd <;> rfl
@[simp] theorem takeCommand_consumeIndex (s : State) :
    (s.takeCommand).consumeIndex = s.consumeIndex := by unfold State.takeCommand; cases s.cmd <;> rfl
@[simp] theorem takeCommand_notice (s : State) :
    (s.takeCommand).notice = s.notice := by unfold State.takeCommand; cases s.cmd <;> rfl

/-! ### withTask -/

@[simp] theorem withTask_pending (s : State) (w : WorkItem) (k : Task) : (s.withTask w k).pending = s.pending := rfl
@[simp] theorem withTask_msz256 (s : State) (w : WorkItem) (k : Task) : (s.withTask w k).msz256 = s.msz256 := rfl
@[simp] theorem withTask_cpselHigh (s : State) (w : WorkItem) (k : Task) :
    (s.withTask w k).cpselHigh = s.cpselHigh := rfl
@[simp] theorem withTask_gameReset (s : State) (w : WorkItem) (k : Task) :
    (s.withTask w k).gameReset = s.gameReset := rfl
@[simp] theorem withTask_mem (s : State) (w : WorkItem) (k : Task) : (s.withTask w k).mem = s.mem := rfl
@[simp] theorem withTask_mpa (s : State) (w : WorkItem) (k : Task) : (s.withTask w k).mpa = s.mpa := rfl
@[simp] theorem withTask_procPort (s : State) (w : WorkItem) (k : Task) :
    (s.withTask w k).procPort = s.procPort := rfl
@[simp] theorem withTask_scanPort (s : State) (w : WorkItem) (k : Task) :
    (s.withTask w k).scanPort = s.scanPort := rfl
@[simp] theorem withTask_stream (s : State) (w : WorkItem) (k : Task) : (s.withTask w k).stream = s.stream := rfl
@[simp] theorem withTask_regions (s : State) (w : WorkItem) (k : Task) : (s.withTask w k).regions = s.regions := rfl
@[simp] theorem withTask_pendingRegion (s : State) (w : WorkItem) (k : Task) :
    (s.withTask w k).pendingRegion = s.pendingRegion := rfl
@[simp] theorem withTask_fault (s : State) (w : WorkItem) (k : Task) : (s.withTask w k).fault = s.fault := rfl
@[simp] theorem withTask_reveal (s : State) (w : WorkItem) (k : Task) : (s.withTask w k).reveal = s.reveal := rfl
@[simp] theorem withTask_page (s : State) (w : WorkItem) (k : Task) : (s.withTask w k).page = s.page := rfl
@[simp] theorem withTask_cause (s : State) (w : WorkItem) (k : Task) : (s.withTask w k).cause = s.cause := rfl
@[simp] theorem withTask_watches (s : State) (w : WorkItem) (k : Task) : (s.withTask w k).watches = s.watches := rfl
@[simp] theorem withTask_syncRead (s : State) (w : WorkItem) (k : Task) :
    (s.withTask w k).syncRead = s.syncRead := rfl
@[simp] theorem withTask_watchReset (s : State) (w : WorkItem) (k : Task) :
    (s.withTask w k).watchReset = s.watchReset := rfl
@[simp] theorem withTask_queue (s : State) (w : WorkItem) (k : Task) : (s.withTask w k).queue = s.queue := rfl
@[simp] theorem withTask_quests (s : State) (w : WorkItem) (k : Task) : (s.withTask w k).quests = s.quests := rfl
@[simp] theorem withTask_steps (s : State) (w : WorkItem) (k : Task) : (s.withTask w k).steps = s.steps := rfl
@[simp] theorem withTask_effects (s : State) (w : WorkItem) (k : Task) : (s.withTask w k).effects = s.effects := rfl
@[simp] theorem withTask_effectUnit (s : State) (w : WorkItem) (k : Task) :
    (s.withTask w k).effectUnit = s.effectUnit := rfl
@[simp] theorem withTask_timers (s : State) (w : WorkItem) (k : Task) : (s.withTask w k).timers = s.timers := rfl
@[simp] theorem withTask_beatOut (s : State) (w : WorkItem) (k : Task) : (s.withTask w k).beatOut = s.beatOut := rfl
@[simp] theorem withTask_consumeIndex (s : State) (w : WorkItem) (k : Task) :
    (s.withTask w k).consumeIndex = s.consumeIndex := rfl
@[simp] theorem withTask_cmd (s : State) (w : WorkItem) (k : Task) : (s.withTask w k).cmd = s.cmd := rfl
@[simp] theorem withTask_notice (s : State) (w : WorkItem) (k : Task) : (s.withTask w k).notice = s.notice := rfl

/-! ### arbitrate -/

@[simp] theorem arbitrate_pending (s : State) :
    (s.arbitrate).pending = s.pending := by unfold State.arbitrate; split <;> rfl
@[simp] theorem arbitrate_msz256 (s : State) :
    (s.arbitrate).msz256 = s.msz256 := by unfold State.arbitrate; split <;> rfl
@[simp] theorem arbitrate_cpselHigh (s : State) :
    (s.arbitrate).cpselHigh = s.cpselHigh := by unfold State.arbitrate; split <;> rfl
@[simp] theorem arbitrate_gameReset (s : State) :
    (s.arbitrate).gameReset = s.gameReset := by unfold State.arbitrate; split <;> rfl
@[simp] theorem arbitrate_mem (s : State) : (s.arbitrate).mem = s.mem := by unfold State.arbitrate; split <;> rfl
@[simp] theorem arbitrate_procPort (s : State) :
    (s.arbitrate).procPort = s.procPort := by unfold State.arbitrate; split <;> rfl
@[simp] theorem arbitrate_scanPort (s : State) :
    (s.arbitrate).scanPort = s.scanPort := by unfold State.arbitrate; split <;> rfl
@[simp] theorem arbitrate_stream (s : State) :
    (s.arbitrate).stream = s.stream := by unfold State.arbitrate; split <;> rfl
@[simp] theorem arbitrate_regions (s : State) :
    (s.arbitrate).regions = s.regions := by unfold State.arbitrate; split <;> rfl
@[simp] theorem arbitrate_pendingRegion (s : State) :
    (s.arbitrate).pendingRegion = s.pendingRegion := by unfold State.arbitrate; split <;> rfl
@[simp] theorem arbitrate_fault (s : State) :
    (s.arbitrate).fault = s.fault := by unfold State.arbitrate; split <;> rfl
@[simp] theorem arbitrate_reveal (s : State) :
    (s.arbitrate).reveal = s.reveal := by unfold State.arbitrate; split <;> rfl
@[simp] theorem arbitrate_page (s : State) : (s.arbitrate).page = s.page := by unfold State.arbitrate; split <;> rfl
@[simp] theorem arbitrate_cause (s : State) :
    (s.arbitrate).cause = s.cause := by unfold State.arbitrate; split <;> rfl
@[simp] theorem arbitrate_watches (s : State) :
    (s.arbitrate).watches = s.watches := by unfold State.arbitrate; split <;> rfl
@[simp] theorem arbitrate_syncRead (s : State) :
    (s.arbitrate).syncRead = s.syncRead := by unfold State.arbitrate; split <;> rfl
@[simp] theorem arbitrate_watchReset (s : State) :
    (s.arbitrate).watchReset = s.watchReset := by unfold State.arbitrate; split <;> rfl
@[simp] theorem arbitrate_queue (s : State) :
    (s.arbitrate).queue = s.queue := by unfold State.arbitrate; split <;> rfl
@[simp] theorem arbitrate_quests (s : State) :
    (s.arbitrate).quests = s.quests := by unfold State.arbitrate; split <;> rfl
@[simp] theorem arbitrate_steps (s : State) :
    (s.arbitrate).steps = s.steps := by unfold State.arbitrate; split <;> rfl
@[simp] theorem arbitrate_work (s : State) : (s.arbitrate).work = s.work := by unfold State.arbitrate; split <;> rfl
@[simp] theorem arbitrate_effects (s : State) :
    (s.arbitrate).effects = s.effects := by unfold State.arbitrate; split <;> rfl
@[simp] theorem arbitrate_effectUnit (s : State) :
    (s.arbitrate).effectUnit = s.effectUnit := by unfold State.arbitrate; split <;> rfl
@[simp] theorem arbitrate_timers (s : State) :
    (s.arbitrate).timers = s.timers := by unfold State.arbitrate; split <;> rfl
@[simp] theorem arbitrate_beatOut (s : State) :
    (s.arbitrate).beatOut = s.beatOut := by unfold State.arbitrate; split <;> rfl
@[simp] theorem arbitrate_consumeIndex (s : State) :
    (s.arbitrate).consumeIndex = s.consumeIndex := by unfold State.arbitrate; split <;> rfl
@[simp] theorem arbitrate_cmd (s : State) : (s.arbitrate).cmd = s.cmd := by unfold State.arbitrate; split <;> rfl
@[simp] theorem arbitrate_notice (s : State) :
    (s.arbitrate).notice = s.notice := by unfold State.arbitrate; split <;> rfl

/-! ### beginPublication -/

@[simp] theorem beginPublication_pending (s : State) :
    (s.beginPublication).pending = s.pending := by unfold State.beginPublication; split <;> rfl
@[simp] theorem beginPublication_msz256 (s : State) :
    (s.beginPublication).msz256 = s.msz256 := by unfold State.beginPublication; split <;> rfl
@[simp] theorem beginPublication_cpselHigh (s : State) :
    (s.beginPublication).cpselHigh = s.cpselHigh := by unfold State.beginPublication; split <;> rfl
@[simp] theorem beginPublication_gameReset (s : State) :
    (s.beginPublication).gameReset = s.gameReset := by unfold State.beginPublication; split <;> rfl
@[simp] theorem beginPublication_mem (s : State) :
    (s.beginPublication).mem = s.mem := by unfold State.beginPublication; split <;> rfl
@[simp] theorem beginPublication_mpa (s : State) :
    (s.beginPublication).mpa = s.mpa := by unfold State.beginPublication; split <;> rfl
@[simp] theorem beginPublication_procPort (s : State) :
    (s.beginPublication).procPort = s.procPort := by unfold State.beginPublication; split <;> rfl
@[simp] theorem beginPublication_scanPort (s : State) :
    (s.beginPublication).scanPort = s.scanPort := by unfold State.beginPublication; split <;> rfl
@[simp] theorem beginPublication_stream (s : State) :
    (s.beginPublication).stream = s.stream := by unfold State.beginPublication; split <;> rfl
@[simp] theorem beginPublication_regions (s : State) :
    (s.beginPublication).regions = s.regions := by unfold State.beginPublication; split <;> rfl
@[simp] theorem beginPublication_pendingRegion (s : State) :
    (s.beginPublication).pendingRegion = s.pendingRegion := by unfold State.beginPublication; split <;> rfl
@[simp] theorem beginPublication_fault (s : State) :
    (s.beginPublication).fault = s.fault := by unfold State.beginPublication; split <;> rfl
@[simp] theorem beginPublication_reveal (s : State) :
    (s.beginPublication).reveal = s.reveal := by unfold State.beginPublication; split <;> rfl
@[simp] theorem beginPublication_page (s : State) :
    (s.beginPublication).page = s.page := by unfold State.beginPublication; split <;> rfl
@[simp] theorem beginPublication_watches (s : State) :
    (s.beginPublication).watches = s.watches := by unfold State.beginPublication; split <;> rfl
@[simp] theorem beginPublication_syncRead (s : State) :
    (s.beginPublication).syncRead = s.syncRead := by unfold State.beginPublication; split <;> rfl
@[simp] theorem beginPublication_watchReset (s : State) :
    (s.beginPublication).watchReset = s.watchReset := by unfold State.beginPublication; split <;> rfl
@[simp] theorem beginPublication_queue (s : State) :
    (s.beginPublication).queue = s.queue := by unfold State.beginPublication; split <;> rfl
@[simp] theorem beginPublication_quests (s : State) :
    (s.beginPublication).quests = s.quests := by unfold State.beginPublication; split <;> rfl
@[simp] theorem beginPublication_steps (s : State) :
    (s.beginPublication).steps = s.steps := by unfold State.beginPublication; split <;> rfl
@[simp] theorem beginPublication_work (s : State) :
    (s.beginPublication).work = s.work := by unfold State.beginPublication; split <;> rfl
@[simp] theorem beginPublication_effects (s : State) :
    (s.beginPublication).effects = s.effects := by unfold State.beginPublication; split <;> rfl
@[simp] theorem beginPublication_effectUnit (s : State) :
    (s.beginPublication).effectUnit = s.effectUnit := by unfold State.beginPublication; split <;> rfl
@[simp] theorem beginPublication_timers (s : State) :
    (s.beginPublication).timers = s.timers := by unfold State.beginPublication; split <;> rfl
@[simp] theorem beginPublication_beatOut (s : State) :
    (s.beginPublication).beatOut = s.beatOut := by unfold State.beginPublication; split <;> rfl
@[simp] theorem beginPublication_consumeIndex (s : State) :
    (s.beginPublication).consumeIndex = s.consumeIndex := by unfold State.beginPublication; split <;> rfl
@[simp] theorem beginPublication_cmd (s : State) :
    (s.beginPublication).cmd = s.cmd := by unfold State.beginPublication; split <;> rfl
@[simp] theorem beginPublication_notice (s : State) :
    (s.beginPublication).notice = s.notice := by unfold State.beginPublication; split <;> rfl

/-! ### react -/

@[simp] theorem react_pending (s : State) : (s.react).pending = s.pending := by simp [State.react]
@[simp] theorem react_msz256 (s : State) : (s.react).msz256 = s.msz256 := by simp [State.react]
@[simp] theorem react_cpselHigh (s : State) : (s.react).cpselHigh = s.cpselHigh := by simp [State.react]
@[simp] theorem react_gameReset (s : State) : (s.react).gameReset = s.gameReset := by simp [State.react]
@[simp] theorem react_mem (s : State) : (s.react).mem = s.mem := by simp [State.react]
@[simp] theorem react_procPort (s : State) : (s.react).procPort = s.procPort := by simp [State.react]
@[simp] theorem react_scanPort (s : State) : (s.react).scanPort = s.scanPort := by simp [State.react]
@[simp] theorem react_stream (s : State) : (s.react).stream = s.stream := by simp [State.react]
@[simp] theorem react_regions (s : State) : (s.react).regions = s.regions := by simp [State.react]
@[simp] theorem react_pendingRegion (s : State) : (s.react).pendingRegion = s.pendingRegion := by simp [State.react]
@[simp] theorem react_fault (s : State) : (s.react).fault = s.fault := by simp [State.react]
@[simp] theorem react_reveal (s : State) : (s.react).reveal = s.reveal := by simp [State.react]
@[simp] theorem react_page (s : State) : (s.react).page = s.page := by simp [State.react]
@[simp] theorem react_watches (s : State) : (s.react).watches = s.watches := by simp [State.react]
@[simp] theorem react_syncRead (s : State) : (s.react).syncRead = s.syncRead := by simp [State.react]
@[simp] theorem react_watchReset (s : State) : (s.react).watchReset = s.watchReset := by simp [State.react]
@[simp] theorem react_queue (s : State) : (s.react).queue = s.queue := by simp [State.react]
@[simp] theorem react_quests (s : State) : (s.react).quests = s.quests := by simp [State.react]
@[simp] theorem react_steps (s : State) : (s.react).steps = s.steps := by simp [State.react]
@[simp] theorem react_work (s : State) : (s.react).work = s.work := by simp [State.react]
@[simp] theorem react_effects (s : State) : (s.react).effects = s.effects := by simp [State.react]
@[simp] theorem react_effectUnit (s : State) : (s.react).effectUnit = s.effectUnit := by simp [State.react]
@[simp] theorem react_timers (s : State) : (s.react).timers = s.timers := by simp [State.react]
@[simp] theorem react_beatOut (s : State) : (s.react).beatOut = s.beatOut := by simp [State.react]
@[simp] theorem react_consumeIndex (s : State) : (s.react).consumeIndex = s.consumeIndex := by simp [State.react]
@[simp] theorem react_cmd (s : State) : (s.react).cmd = s.cmd := by simp [State.react]
@[simp] theorem react_notice (s : State) : (s.react).notice = s.notice := by simp [State.react]

/-! ### issueSync -/

@[simp] theorem issueSync_pending (s : State) :
    (s.issueSync).pending = s.pending := by unfold State.issueSync; (repeat' split) <;> rfl
@[simp] theorem issueSync_msz256 (s : State) :
    (s.issueSync).msz256 = s.msz256 := by unfold State.issueSync; (repeat' split) <;> rfl
@[simp] theorem issueSync_cpselHigh (s : State) :
    (s.issueSync).cpselHigh = s.cpselHigh := by unfold State.issueSync; (repeat' split) <;> rfl
@[simp] theorem issueSync_gameReset (s : State) :
    (s.issueSync).gameReset = s.gameReset := by unfold State.issueSync; (repeat' split) <;> rfl
@[simp] theorem issueSync_mem (s : State) :
    (s.issueSync).mem = s.mem := by unfold State.issueSync; (repeat' split) <;> rfl
@[simp] theorem issueSync_mpa (s : State) :
    (s.issueSync).mpa = s.mpa := by unfold State.issueSync; (repeat' split) <;> rfl
@[simp] theorem issueSync_procPort (s : State) :
    (s.issueSync).procPort = s.procPort := by unfold State.issueSync; (repeat' split) <;> rfl
@[simp] theorem issueSync_scanPort (s : State) :
    (s.issueSync).scanPort = s.scanPort := by unfold State.issueSync; (repeat' split) <;> rfl
@[simp] theorem issueSync_stream (s : State) :
    (s.issueSync).stream = s.stream := by unfold State.issueSync; (repeat' split) <;> rfl
@[simp] theorem issueSync_regions (s : State) :
    (s.issueSync).regions = s.regions := by unfold State.issueSync; (repeat' split) <;> rfl
@[simp] theorem issueSync_pendingRegion (s : State) :
    (s.issueSync).pendingRegion = s.pendingRegion := by unfold State.issueSync; (repeat' split) <;> rfl
@[simp] theorem issueSync_fault (s : State) :
    (s.issueSync).fault = s.fault := by unfold State.issueSync; (repeat' split) <;> rfl
@[simp] theorem issueSync_reveal (s : State) :
    (s.issueSync).reveal = s.reveal := by unfold State.issueSync; (repeat' split) <;> rfl
@[simp] theorem issueSync_page (s : State) :
    (s.issueSync).page = s.page := by unfold State.issueSync; (repeat' split) <;> rfl
@[simp] theorem issueSync_cause (s : State) :
    (s.issueSync).cause = s.cause := by unfold State.issueSync; (repeat' split) <;> rfl
@[simp] theorem issueSync_watches (s : State) :
    (s.issueSync).watches = s.watches := by unfold State.issueSync; (repeat' split) <;> rfl
@[simp] theorem issueSync_watchReset (s : State) :
    (s.issueSync).watchReset = s.watchReset := by unfold State.issueSync; (repeat' split) <;> rfl
@[simp] theorem issueSync_queue (s : State) :
    (s.issueSync).queue = s.queue := by unfold State.issueSync; (repeat' split) <;> rfl
@[simp] theorem issueSync_quests (s : State) :
    (s.issueSync).quests = s.quests := by unfold State.issueSync; (repeat' split) <;> rfl
@[simp] theorem issueSync_steps (s : State) :
    (s.issueSync).steps = s.steps := by unfold State.issueSync; (repeat' split) <;> rfl
@[simp] theorem issueSync_work (s : State) :
    (s.issueSync).work = s.work := by unfold State.issueSync; (repeat' split) <;> rfl
@[simp] theorem issueSync_effects (s : State) :
    (s.issueSync).effects = s.effects := by unfold State.issueSync; (repeat' split) <;> rfl
@[simp] theorem issueSync_effectUnit (s : State) :
    (s.issueSync).effectUnit = s.effectUnit := by unfold State.issueSync; (repeat' split) <;> rfl
@[simp] theorem issueSync_timers (s : State) :
    (s.issueSync).timers = s.timers := by unfold State.issueSync; (repeat' split) <;> rfl
@[simp] theorem issueSync_beatOut (s : State) :
    (s.issueSync).beatOut = s.beatOut := by unfold State.issueSync; (repeat' split) <;> rfl
@[simp] theorem issueSync_consumeIndex (s : State) :
    (s.issueSync).consumeIndex = s.consumeIndex := by unfold State.issueSync; (repeat' split) <;> rfl
@[simp] theorem issueSync_cmd (s : State) :
    (s.issueSync).cmd = s.cmd := by unfold State.issueSync; (repeat' split) <;> rfl
@[simp] theorem issueSync_notice (s : State) :
    (s.issueSync).notice = s.notice := by unfold State.issueSync; (repeat' split) <;> rfl

/-! ### staleSync -/

@[simp] theorem staleSync_pending (s : State) :
    (s.staleSync).pending = s.pending := by unfold State.staleSync; split <;> rfl
@[simp] theorem staleSync_msz256 (s : State) :
    (s.staleSync).msz256 = s.msz256 := by unfold State.staleSync; split <;> rfl
@[simp] theorem staleSync_cpselHigh (s : State) :
    (s.staleSync).cpselHigh = s.cpselHigh := by unfold State.staleSync; split <;> rfl
@[simp] theorem staleSync_gameReset (s : State) :
    (s.staleSync).gameReset = s.gameReset := by unfold State.staleSync; split <;> rfl
@[simp] theorem staleSync_mem (s : State) : (s.staleSync).mem = s.mem := by unfold State.staleSync; split <;> rfl
@[simp] theorem staleSync_mpa (s : State) : (s.staleSync).mpa = s.mpa := by unfold State.staleSync; split <;> rfl
@[simp] theorem staleSync_procPort (s : State) :
    (s.staleSync).procPort = s.procPort := by unfold State.staleSync; split <;> rfl
@[simp] theorem staleSync_scanPort (s : State) :
    (s.staleSync).scanPort = s.scanPort := by unfold State.staleSync; split <;> rfl
@[simp] theorem staleSync_stream (s : State) :
    (s.staleSync).stream = s.stream := by unfold State.staleSync; split <;> rfl
@[simp] theorem staleSync_regions (s : State) :
    (s.staleSync).regions = s.regions := by unfold State.staleSync; split <;> rfl
@[simp] theorem staleSync_pendingRegion (s : State) :
    (s.staleSync).pendingRegion = s.pendingRegion := by unfold State.staleSync; split <;> rfl
@[simp] theorem staleSync_fault (s : State) :
    (s.staleSync).fault = s.fault := by unfold State.staleSync; split <;> rfl
@[simp] theorem staleSync_reveal (s : State) :
    (s.staleSync).reveal = s.reveal := by unfold State.staleSync; split <;> rfl
@[simp] theorem staleSync_page (s : State) : (s.staleSync).page = s.page := by unfold State.staleSync; split <;> rfl
@[simp] theorem staleSync_cause (s : State) :
    (s.staleSync).cause = s.cause := by unfold State.staleSync; split <;> rfl
@[simp] theorem staleSync_watches (s : State) :
    (s.staleSync).watches = s.watches := by unfold State.staleSync; split <;> rfl
@[simp] theorem staleSync_queue (s : State) :
    (s.staleSync).queue = s.queue := by unfold State.staleSync; split <;> rfl
@[simp] theorem staleSync_quests (s : State) :
    (s.staleSync).quests = s.quests := by unfold State.staleSync; split <;> rfl
@[simp] theorem staleSync_steps (s : State) :
    (s.staleSync).steps = s.steps := by unfold State.staleSync; split <;> rfl
@[simp] theorem staleSync_work (s : State) : (s.staleSync).work = s.work := by unfold State.staleSync; split <;> rfl
@[simp] theorem staleSync_effects (s : State) :
    (s.staleSync).effects = s.effects := by unfold State.staleSync; split <;> rfl
@[simp] theorem staleSync_effectUnit (s : State) :
    (s.staleSync).effectUnit = s.effectUnit := by unfold State.staleSync; split <;> rfl
@[simp] theorem staleSync_timers (s : State) :
    (s.staleSync).timers = s.timers := by unfold State.staleSync; split <;> rfl
@[simp] theorem staleSync_beatOut (s : State) :
    (s.staleSync).beatOut = s.beatOut := by unfold State.staleSync; split <;> rfl
@[simp] theorem staleSync_consumeIndex (s : State) :
    (s.staleSync).consumeIndex = s.consumeIndex := by unfold State.staleSync; split <;> rfl
@[simp] theorem staleSync_cmd (s : State) : (s.staleSync).cmd = s.cmd := by unfold State.staleSync; split <;> rfl
@[simp] theorem staleSync_notice (s : State) :
    (s.staleSync).notice = s.notice := by unfold State.staleSync; split <;> rfl

/-! ### installRegion -/

@[simp] theorem installRegion_pending (s : State) :
    (s.installRegion).pending = s.pending := by unfold State.installRegion; split <;> rfl
@[simp] theorem installRegion_msz256 (s : State) :
    (s.installRegion).msz256 = s.msz256 := by unfold State.installRegion; split <;> rfl
@[simp] theorem installRegion_cpselHigh (s : State) :
    (s.installRegion).cpselHigh = s.cpselHigh := by unfold State.installRegion; split <;> rfl
@[simp] theorem installRegion_gameReset (s : State) :
    (s.installRegion).gameReset = s.gameReset := by unfold State.installRegion; split <;> rfl
@[simp] theorem installRegion_mem (s : State) :
    (s.installRegion).mem = s.mem := by unfold State.installRegion; split <;> rfl
@[simp] theorem installRegion_mpa (s : State) :
    (s.installRegion).mpa = s.mpa := by unfold State.installRegion; split <;> rfl
@[simp] theorem installRegion_procPort (s : State) :
    (s.installRegion).procPort = s.procPort := by unfold State.installRegion; split <;> rfl
@[simp] theorem installRegion_scanPort (s : State) :
    (s.installRegion).scanPort = s.scanPort := by unfold State.installRegion; split <;> rfl
@[simp] theorem installRegion_stream (s : State) :
    (s.installRegion).stream = s.stream := by unfold State.installRegion; split <;> rfl
@[simp] theorem installRegion_fault (s : State) :
    (s.installRegion).fault = s.fault := by unfold State.installRegion; split <;> rfl
@[simp] theorem installRegion_reveal (s : State) :
    (s.installRegion).reveal = s.reveal := by unfold State.installRegion; split <;> rfl
@[simp] theorem installRegion_page (s : State) :
    (s.installRegion).page = s.page := by unfold State.installRegion; split <;> rfl
@[simp] theorem installRegion_cause (s : State) :
    (s.installRegion).cause = s.cause := by unfold State.installRegion; split <;> rfl
@[simp] theorem installRegion_watches (s : State) :
    (s.installRegion).watches = s.watches := by unfold State.installRegion; split <;> rfl
@[simp] theorem installRegion_syncRead (s : State) :
    (s.installRegion).syncRead = s.syncRead := by unfold State.installRegion; split <;> rfl
@[simp] theorem installRegion_watchReset (s : State) :
    (s.installRegion).watchReset = s.watchReset := by unfold State.installRegion; split <;> rfl
@[simp] theorem installRegion_queue (s : State) :
    (s.installRegion).queue = s.queue := by unfold State.installRegion; split <;> rfl
@[simp] theorem installRegion_quests (s : State) :
    (s.installRegion).quests = s.quests := by unfold State.installRegion; split <;> rfl
@[simp] theorem installRegion_steps (s : State) :
    (s.installRegion).steps = s.steps := by unfold State.installRegion; split <;> rfl
@[simp] theorem installRegion_work (s : State) :
    (s.installRegion).work = s.work := by unfold State.installRegion; split <;> rfl
@[simp] theorem installRegion_effects (s : State) :
    (s.installRegion).effects = s.effects := by unfold State.installRegion; split <;> rfl
@[simp] theorem installRegion_effectUnit (s : State) :
    (s.installRegion).effectUnit = s.effectUnit := by unfold State.installRegion; split <;> rfl
@[simp] theorem installRegion_timers (s : State) :
    (s.installRegion).timers = s.timers := by unfold State.installRegion; split <;> rfl
@[simp] theorem installRegion_beatOut (s : State) :
    (s.installRegion).beatOut = s.beatOut := by unfold State.installRegion; split <;> rfl
@[simp] theorem installRegion_consumeIndex (s : State) :
    (s.installRegion).consumeIndex = s.consumeIndex := by unfold State.installRegion; split <;> rfl
@[simp] theorem installRegion_cmd (s : State) :
    (s.installRegion).cmd = s.cmd := by unfold State.installRegion; split <;> rfl
@[simp] theorem installRegion_notice (s : State) :
    (s.installRegion).notice = s.notice := by unfold State.installRegion; split <;> rfl

/-! ### compareIndexes -/

@[simp] theorem compareIndexes_pending (s : State) :
    (s.compareIndexes).pending = s.pending := by unfold State.compareIndexes; split <;> rfl
@[simp] theorem compareIndexes_msz256 (s : State) :
    (s.compareIndexes).msz256 = s.msz256 := by unfold State.compareIndexes; split <;> rfl
@[simp] theorem compareIndexes_cpselHigh (s : State) :
    (s.compareIndexes).cpselHigh = s.cpselHigh := by unfold State.compareIndexes; split <;> rfl
@[simp] theorem compareIndexes_gameReset (s : State) :
    (s.compareIndexes).gameReset = s.gameReset := by unfold State.compareIndexes; split <;> rfl
@[simp] theorem compareIndexes_mem (s : State) :
    (s.compareIndexes).mem = s.mem := by unfold State.compareIndexes; split <;> rfl
@[simp] theorem compareIndexes_mpa (s : State) :
    (s.compareIndexes).mpa = s.mpa := by unfold State.compareIndexes; split <;> rfl
@[simp] theorem compareIndexes_procPort (s : State) :
    (s.compareIndexes).procPort = s.procPort := by unfold State.compareIndexes; split <;> rfl
@[simp] theorem compareIndexes_scanPort (s : State) :
    (s.compareIndexes).scanPort = s.scanPort := by unfold State.compareIndexes; split <;> rfl
@[simp] theorem compareIndexes_stream (s : State) :
    (s.compareIndexes).stream = s.stream := by unfold State.compareIndexes; split <;> rfl
@[simp] theorem compareIndexes_regions (s : State) :
    (s.compareIndexes).regions = s.regions := by unfold State.compareIndexes; split <;> rfl
@[simp] theorem compareIndexes_pendingRegion (s : State) :
    (s.compareIndexes).pendingRegion = s.pendingRegion := by unfold State.compareIndexes; split <;> rfl
@[simp] theorem compareIndexes_fault (s : State) :
    (s.compareIndexes).fault = s.fault := by unfold State.compareIndexes; split <;> rfl
@[simp] theorem compareIndexes_reveal (s : State) :
    (s.compareIndexes).reveal = s.reveal := by unfold State.compareIndexes; split <;> rfl
@[simp] theorem compareIndexes_page (s : State) :
    (s.compareIndexes).page = s.page := by unfold State.compareIndexes; split <;> rfl
@[simp] theorem compareIndexes_cause (s : State) :
    (s.compareIndexes).cause = s.cause := by unfold State.compareIndexes; split <;> rfl
@[simp] theorem compareIndexes_watches (s : State) :
    (s.compareIndexes).watches = s.watches := by unfold State.compareIndexes; split <;> rfl
@[simp] theorem compareIndexes_syncRead (s : State) :
    (s.compareIndexes).syncRead = s.syncRead := by unfold State.compareIndexes; split <;> rfl
@[simp] theorem compareIndexes_watchReset (s : State) :
    (s.compareIndexes).watchReset = s.watchReset := by unfold State.compareIndexes; split <;> rfl
@[simp] theorem compareIndexes_queue (s : State) :
    (s.compareIndexes).queue = s.queue := by unfold State.compareIndexes; split <;> rfl
@[simp] theorem compareIndexes_quests (s : State) :
    (s.compareIndexes).quests = s.quests := by unfold State.compareIndexes; split <;> rfl
@[simp] theorem compareIndexes_steps (s : State) :
    (s.compareIndexes).steps = s.steps := by unfold State.compareIndexes; split <;> rfl
@[simp] theorem compareIndexes_work (s : State) :
    (s.compareIndexes).work = s.work := by unfold State.compareIndexes; split <;> rfl
@[simp] theorem compareIndexes_effects (s : State) :
    (s.compareIndexes).effects = s.effects := by unfold State.compareIndexes; split <;> rfl
@[simp] theorem compareIndexes_effectUnit (s : State) :
    (s.compareIndexes).effectUnit = s.effectUnit := by unfold State.compareIndexes; split <;> rfl
@[simp] theorem compareIndexes_timers (s : State) :
    (s.compareIndexes).timers = s.timers := by unfold State.compareIndexes; split <;> rfl
@[simp] theorem compareIndexes_beatOut (s : State) :
    (s.compareIndexes).beatOut = s.beatOut := by unfold State.compareIndexes; split <;> rfl
@[simp] theorem compareIndexes_consumeIndex (s : State) :
    (s.compareIndexes).consumeIndex = s.consumeIndex := by unfold State.compareIndexes; split <;> rfl
@[simp] theorem compareIndexes_notice (s : State) :
    (s.compareIndexes).notice = s.notice := by unfold State.compareIndexes; split <;> rfl

/-! ### examineRing -/

@[simp] theorem examineRing_pending (s : State) :
    (s.examineRing).pending = s.pending := by unfold State.examineRing; split <;> first | rfl | (split <;> rfl)
@[simp] theorem examineRing_msz256 (s : State) :
    (s.examineRing).msz256 = s.msz256 := by unfold State.examineRing; split <;> first | rfl | (split <;> rfl)
@[simp] theorem examineRing_cpselHigh (s : State) :
    (s.examineRing).cpselHigh = s.cpselHigh := by unfold State.examineRing; split <;> first | rfl | (split <;> rfl)
@[simp] theorem examineRing_gameReset (s : State) :
    (s.examineRing).gameReset = s.gameReset := by unfold State.examineRing; split <;> first | rfl | (split <;> rfl)
@[simp] theorem examineRing_mem (s : State) :
    (s.examineRing).mem = s.mem := by unfold State.examineRing; split <;> first | rfl | (split <;> rfl)
@[simp] theorem examineRing_mpa (s : State) :
    (s.examineRing).mpa = s.mpa := by unfold State.examineRing; split <;> first | rfl | (split <;> rfl)
@[simp] theorem examineRing_procPort (s : State) :
    (s.examineRing).procPort = s.procPort := by unfold State.examineRing; split <;> first | rfl | (split <;> rfl)
@[simp] theorem examineRing_scanPort (s : State) :
    (s.examineRing).scanPort = s.scanPort := by unfold State.examineRing; split <;> first | rfl | (split <;> rfl)
@[simp] theorem examineRing_stream (s : State) :
    (s.examineRing).stream = s.stream := by unfold State.examineRing; split <;> first | rfl | (split <;> rfl)
@[simp] theorem examineRing_regions (s : State) :
    (s.examineRing).regions = s.regions := by unfold State.examineRing; split <;> first | rfl | (split <;> rfl)
@[simp] theorem examineRing_pendingRegion (s : State) :
    (s.examineRing).pendingRegion = s.pendingRegion := by unfold State.examineRing; split <;> first | rfl | (split <;> rfl)
@[simp] theorem examineRing_fault (s : State) :
    (s.examineRing).fault = s.fault := by unfold State.examineRing; split <;> first | rfl | (split <;> rfl)
@[simp] theorem examineRing_reveal (s : State) :
    (s.examineRing).reveal = s.reveal := by unfold State.examineRing; split <;> first | rfl | (split <;> rfl)
@[simp] theorem examineRing_page (s : State) :
    (s.examineRing).page = s.page := by unfold State.examineRing; split <;> first | rfl | (split <;> rfl)
@[simp] theorem examineRing_cause (s : State) :
    (s.examineRing).cause = s.cause := by unfold State.examineRing; split <;> first | rfl | (split <;> rfl)
@[simp] theorem examineRing_watches (s : State) :
    (s.examineRing).watches = s.watches := by unfold State.examineRing; split <;> first | rfl | (split <;> rfl)
@[simp] theorem examineRing_syncRead (s : State) :
    (s.examineRing).syncRead = s.syncRead := by unfold State.examineRing; split <;> first | rfl | (split <;> rfl)
@[simp] theorem examineRing_watchReset (s : State) :
    (s.examineRing).watchReset = s.watchReset := by unfold State.examineRing; split <;> first | rfl | (split <;> rfl)
@[simp] theorem examineRing_queue (s : State) :
    (s.examineRing).queue = s.queue := by unfold State.examineRing; split <;> first | rfl | (split <;> rfl)
@[simp] theorem examineRing_quests (s : State) :
    (s.examineRing).quests = s.quests := by unfold State.examineRing; split <;> first | rfl | (split <;> rfl)
@[simp] theorem examineRing_steps (s : State) :
    (s.examineRing).steps = s.steps := by unfold State.examineRing; split <;> first | rfl | (split <;> rfl)
@[simp] theorem examineRing_work (s : State) :
    (s.examineRing).work = s.work := by unfold State.examineRing; split <;> first | rfl | (split <;> rfl)
@[simp] theorem examineRing_effects (s : State) :
    (s.examineRing).effects = s.effects := by unfold State.examineRing; split <;> first | rfl | (split <;> rfl)
@[simp] theorem examineRing_effectUnit (s : State) :
    (s.examineRing).effectUnit = s.effectUnit := by unfold State.examineRing; split <;> first | rfl | (split <;> rfl)
@[simp] theorem examineRing_timers (s : State) :
    (s.examineRing).timers = s.timers := by unfold State.examineRing; split <;> first | rfl | (split <;> rfl)
@[simp] theorem examineRing_beatOut (s : State) :
    (s.examineRing).beatOut = s.beatOut := by unfold State.examineRing; split <;> first | rfl | (split <;> rfl)
@[simp] theorem examineRing_consumeIndex (s : State) :
    (s.examineRing).consumeIndex = s.consumeIndex := by unfold State.examineRing; split <;> first | rfl | (split <;> rfl)
@[simp] theorem examineRing_cmd (s : State) :
    (s.examineRing).cmd = s.cmd := by unfold State.examineRing; split <;> first | rfl | (split <;> rfl)

/-! ### handNotice -/

@[simp] theorem handNotice_pending (s : State) (n : Notice) :
    (s.handNotice n).pending = s.pending := by unfold State.handNotice; split <;> simp
@[simp] theorem handNotice_msz256 (s : State) (n : Notice) :
    (s.handNotice n).msz256 = s.msz256 := by unfold State.handNotice; split <;> simp
@[simp] theorem handNotice_cpselHigh (s : State) (n : Notice) :
    (s.handNotice n).cpselHigh = s.cpselHigh := by unfold State.handNotice; split <;> simp
@[simp] theorem handNotice_gameReset (s : State) (n : Notice) :
    (s.handNotice n).gameReset = s.gameReset := by unfold State.handNotice; split <;> simp
@[simp] theorem handNotice_mem (s : State) (n : Notice) :
    (s.handNotice n).mem = s.mem := by unfold State.handNotice; split <;> simp
@[simp] theorem handNotice_mpa (s : State) (n : Notice) :
    (s.handNotice n).mpa = s.mpa := by unfold State.handNotice; split <;> simp
@[simp] theorem handNotice_procPort (s : State) (n : Notice) :
    (s.handNotice n).procPort = s.procPort := by unfold State.handNotice; split <;> simp
@[simp] theorem handNotice_scanPort (s : State) (n : Notice) :
    (s.handNotice n).scanPort = s.scanPort := by unfold State.handNotice; split <;> simp
@[simp] theorem handNotice_stream (s : State) (n : Notice) :
    (s.handNotice n).stream = s.stream := by unfold State.handNotice; split <;> simp
@[simp] theorem handNotice_regions (s : State) (n : Notice) :
    (s.handNotice n).regions = s.regions := by unfold State.handNotice; split <;> simp
@[simp] theorem handNotice_pendingRegion (s : State) (n : Notice) :
    (s.handNotice n).pendingRegion = s.pendingRegion := by unfold State.handNotice; split <;> simp
@[simp] theorem handNotice_fault (s : State) (n : Notice) :
    (s.handNotice n).fault = s.fault := by unfold State.handNotice; split <;> simp
@[simp] theorem handNotice_reveal (s : State) (n : Notice) :
    (s.handNotice n).reveal = s.reveal := by unfold State.handNotice; split <;> simp
@[simp] theorem handNotice_page (s : State) (n : Notice) :
    (s.handNotice n).page = s.page := by unfold State.handNotice; split <;> simp
@[simp] theorem handNotice_watches (s : State) (n : Notice) :
    (s.handNotice n).watches = s.watches := by unfold State.handNotice; split <;> simp
@[simp] theorem handNotice_syncRead (s : State) (n : Notice) :
    (s.handNotice n).syncRead = s.syncRead := by unfold State.handNotice; split <;> simp
@[simp] theorem handNotice_watchReset (s : State) (n : Notice) :
    (s.handNotice n).watchReset = s.watchReset := by unfold State.handNotice; split <;> simp
@[simp] theorem handNotice_queue (s : State) (n : Notice) :
    (s.handNotice n).queue = s.queue := by unfold State.handNotice; split <;> simp
@[simp] theorem handNotice_quests (s : State) (n : Notice) :
    (s.handNotice n).quests = s.quests := by unfold State.handNotice; split <;> simp
@[simp] theorem handNotice_steps (s : State) (n : Notice) :
    (s.handNotice n).steps = s.steps := by unfold State.handNotice; split <;> simp
@[simp] theorem handNotice_work (s : State) (n : Notice) :
    (s.handNotice n).work = s.work := by unfold State.handNotice; split <;> simp
@[simp] theorem handNotice_effects (s : State) (n : Notice) :
    (s.handNotice n).effects = s.effects := by unfold State.handNotice; split <;> simp
@[simp] theorem handNotice_effectUnit (s : State) (n : Notice) :
    (s.handNotice n).effectUnit = s.effectUnit := by unfold State.handNotice; split <;> simp
@[simp] theorem handNotice_timers (s : State) (n : Notice) :
    (s.handNotice n).timers = s.timers := by unfold State.handNotice; split <;> simp
@[simp] theorem handNotice_beatOut (s : State) (n : Notice) :
    (s.handNotice n).beatOut = s.beatOut := by unfold State.handNotice; split <;> simp
@[simp] theorem handNotice_consumeIndex (s : State) (n : Notice) :
    (s.handNotice n).consumeIndex = s.consumeIndex := by unfold State.handNotice; split <;> simp
@[simp] theorem handNotice_cmd (s : State) (n : Notice) :
    (s.handNotice n).cmd = s.cmd := by unfold State.handNotice; split <;> simp

end Sys2Proof.Machine
end

