-- ==== Sys2Proof/Laws/Ops.lean ====
section
/-! SUPPORT. The shared operations, each with what it can do said once: tables read after an update, the causes, the
snoop stream, the trigger queue, the hold queue, and the reaction that ends every step. -/

namespace Sys2Proof.Machine

open Sys2Proof

/-! ### Tables read after an update -/

@[simp] theorem updWatch_self (s : State) (w : Fin 64) (f : Watch → Watch) :
    (s.updWatch w f).watch w = f (s.watch w) := by
  simp [State.updWatch, State.watch]

theorem updWatch_other (s : State) (w v : Fin 64) (f : Watch → Watch) (h : v ≠ w) :
    (s.updWatch w f).watch v = s.watch v := by
  have h' : w.val ≠ v.val := fun e => h (Fin.ext e.symm)
  simp [State.updWatch, State.watch, h']

@[simp] theorem updQuest_self (s : State) (q : Fin 32) (f : Quest → Quest) :
    (s.updQuest q f).quest q = f (s.quest q) := by
  simp [State.updQuest, State.quest]

theorem updQuest_other (s : State) (q p : Fin 32) (f : Quest → Quest) (h : p ≠ q) :
    (s.updQuest q f).quest p = s.quest p := by
  have h' : q.val ≠ p.val := fun e => h (Fin.ext e.symm)
  simp [State.updQuest, State.quest, h']

@[simp] theorem updTimer_self (s : State) (t : Fin 8) (f : Timer → Timer) :
    (s.updTimer t f).timer t = f (s.timer t) := by
  simp [State.updTimer, State.timer]

theorem updTimer_other (s : State) (t u : Fin 8) (f : Timer → Timer) (h : u ≠ t) :
    (s.updTimer t f).timer u = s.timer u := by
  have h' : t.val ≠ u.val := fun e => h (Fin.ext e.symm)
  simp [State.updTimer, State.timer, h']

@[simp] theorem setPort_self (s : State) (m : Master) (p : MasterPort) : (s.setPort m p).port m = p := by
  cases m <;> rfl

theorem setPort_other (s : State) (m n : Master) (p : MasterPort) (h : n ≠ m) :
    (s.setPort m p).port n = s.port n := by
  cases m <;> cases n <;> first | rfl | exact absurd rfl h

/-! ### Causes and faults -/

theorem raise_cause (s : State) (c : CauseSet) :
    (s.raise c).cause = { s.cause with arrivals := s.cause.arrivals ||| (c &&& ~~~s.cause.working) } := rfl

theorem recordFault_fault (s : State) (w : Writer) (d : Direction) (a : Nat) :
    (s.recordFault w d a).fault = { writer := w, dir := d, addr := BitVec.ofNat 24 a } := rfl

theorem recordFault_cause (s : State) (w : Writer) (d : Direction) (a : Nat) :
    (s.recordFault w d a).cause = (s.raise causeAccess).cause := rfl

/-- R169: a raised cause that is not in the working set is in the arrivals. -/
theorem raise_arrivals_getLsbD (s : State) (c : CauseSet) (i : Nat) (hi : i < 15) :
    (s.raise c).cause.arrivals.getLsbD i
      = (s.cause.arrivals.getLsbD i || (c.getLsbD i && !s.cause.working.getLsbD i)) := by
  simp [raise_cause, hi]

/-! ### The snoop stream -/

theorem passOver_entries (p : StreamBody → Bool) (b : Snooper) (l : List StreamItem) :
    (passOver p b l).map StreamItem.body = l.map StreamItem.body := by
  induction l with
  | nil => rfl
  | cons it rest ih =>
    unfold passOver
    split
    · split
      · rfl
      · cases b <;> simp [ih, StreamItem.taken]
    · simp [ih]

theorem passOver_countP (p : StreamBody → Bool) (b : Snooper) (l : List StreamItem) :
    (passOver p b l).countP StreamItem.isEntry = l.countP StreamItem.isEntry := by
  induction l with
  | nil => rfl
  | cons it rest ih =>
    unfold passOver
    split
    · split
      · rfl
      · have h : (it.taken b).isEntry = it.isEntry := by cases b <;> rfl
        simp [List.countP_cons, ih, h]
    · simp [List.countP_cons, ih]

theorem takeFirst_countP (b : Snooper) (l : List StreamItem) :
    (takeFirst b l).countP StreamItem.isEntry = l.countP StreamItem.isEntry := by
  induction l with
  | nil => rfl
  | cons it rest ih =>
    unfold takeFirst
    split
    · have h : (it.taken b).isEntry = it.isEntry := by cases b <;> rfl
      simp [List.countP_cons, h]
    · simp [List.countP_cons, ih]

/-- R151: passing over and leaving out what is taken never adds an entry. -/
theorem tidyStream_entries (s : State) : s.tidyStream.entriesStanding ≤ s.entriesStanding := by
  unfold State.entriesStanding State.tidyStream
  refine Nat.le_trans (List.filter_sublist.countP_le) ?_
  rw [passOver_countP, passOver_countP]

/-- R151: a completed write adds at most one entry. -/
theorem pushStream_entries (s : State) (b : StreamBody) :
    (s.pushStream b).entriesStanding ≤ s.entriesStanding + 1 := by
  unfold State.pushStream
  refine Nat.le_trans (tidyStream_entries _) ?_
  unfold State.entriesStanding
  rw [List.countP_append]
  have h : List.countP StreamItem.isEntry
      [{ body := b, watchDue := true, fogDue := true, pageDue := true }] ≤ 1 := List.countP_le_length
  simp only [Nat.add_le_add_iff_left]
  exact h

/-- R151: a mark is no entry (log 6). -/
theorem pushStream_mark_entries (s : State) (word : Word) :
    (s.pushStream (.syncMark word)).entriesStanding ≤ s.entriesStanding := by
  unfold State.pushStream
  refine Nat.le_trans (tidyStream_entries _) ?_
  unfold State.entriesStanding
  rw [List.countP_append]
  simp [StreamItem.isEntry]

/-- A block that takes its next item adds no entry. -/
theorem takeFor_entries (s : State) (b : Snooper) : (s.takeFor b).entriesStanding ≤ s.entriesStanding := by
  unfold State.takeFor
  refine Nat.le_trans (tidyStream_entries _) ?_
  unfold State.entriesStanding
  rw [takeFirst_countP]

theorem partWrite_mem (s : State) (a : Nat) (w : Word) : (s.partWrite a w).mem = writeWord s.mem a w := rfl

theorem partWrite_entries (s : State) (a : Nat) (w : Word) :
    (s.partWrite a w).entriesStanding ≤ s.entriesStanding + 1 := pushStream_entries _ _

/-- A write by the part keeps memory in canonical form. -/
theorem partWrite_wf (s : State) (h : s.mem.wf) (a : Nat) (w : Word) : (s.partWrite a w).mem.wf :=
  wf_writeWord _ h _ _

theorem effectTransfer_mem (s : State) (j : EffectJob) :
    (s.effectTransfer j).mem
      = writeWord s.mem j.record.addr (j.newWord (readWord s.mem j.record.addr)) := rfl

/-! ### The trigger queue -/

/-- R60: an EXPIRY offer leaves the WATCH entries as they were. -/
theorem offerExpiry_countP_isWatch (l : List Trigger) (t : Fin 8) (b : Option (Fin 32)) :
    (offerExpiry l t b).countP Trigger.isWatch = l.countP Trigger.isWatch := by
  unfold offerExpiry
  split
  · rw [List.countP_map]
    apply List.countP_congr
    intro e _
    cases e with
    | watch w x d => simp [Trigger.isExpiryOf]
    | expiry u c =>
      by_cases hu : u = t <;> simp [Trigger.isExpiryOf, Trigger.isWatch, hu]
  · simp [List.countP_append, Trigger.isWatch]

/-- R60: an EXPIRY offer of timer `t` leaves the entries of another timer as they were. -/
theorem offerExpiry_countP_other (l : List Trigger) (t u : Fin 8) (b : Option (Fin 32)) (h : u ≠ t) :
    (offerExpiry l t b).countP (Trigger.isExpiryOf u) = l.countP (Trigger.isExpiryOf u) := by
  have h' : ¬ t = u := fun e => h e.symm
  unfold offerExpiry
  split
  · rw [List.countP_map]
    apply List.countP_congr
    intro e _
    cases e with
    | watch w x d => simp [Trigger.isExpiryOf]
    | expiry v c =>
      by_cases hv : v = t <;> simp [Trigger.isExpiryOf, hv, h']
  · simp [List.countP_append, Trigger.isExpiryOf, h']

/-- R60: an EXPIRY offer merges or makes the timer's only entry. -/
theorem offerExpiry_countP_self (l : List Trigger) (t : Fin 8) (b : Option (Fin 32))
    (h : l.countP (Trigger.isExpiryOf t) ≤ 1) :
    (offerExpiry l t b).countP (Trigger.isExpiryOf t) ≤ 1 := by
  unfold offerExpiry
  split
  · rw [List.countP_map]
    refine Nat.le_trans (Nat.le_of_eq ?_) h
    apply List.countP_congr
    intro e _
    cases e with
    | watch w x d => simp [Trigger.isExpiryOf]
    | expiry v c =>
      by_cases hv : v = t <;> simp [Trigger.isExpiryOf, hv]
  · rename_i hn
    have h0 : l.countP (Trigger.isExpiryOf t) = 0 := by
      rw [List.countP_eq_zero]
      intro e he hx
      exact hn (List.any_eq_true.mpr ⟨e, he, hx⟩)
    simp [List.countP_append, h0, Trigger.isExpiryOf]

/-! ### The hold queue -/

/-- R188: the examination never lengthens the hold queue. -/
theorem examineRing_hold (s : State) : s.examineRing.notice.hold.length ≤ s.notice.hold.length := by
  unfold State.examineRing
  split
  · rename_i n rest hw hh
    split
    · simp [hh]
    · exact Nat.le_refl _
  all_goals exact Nat.le_refl _

/-- R187, R188: a hand-over leaves at most 8 notices in the hold queue. -/
theorem handNotice_hold (s : State) (n : Notice) (h : s.notice.hold.length ≤ 8) :
    (s.handNotice n).notice.hold.length ≤ 8 := by
  unfold State.handNotice
  split
  · rename_i hlt
    refine Nat.le_trans (examineRing_hold _) ?_
    simp
    omega
  · simpa using h

/-! ### The reaction -/

/-- R147, R148, R151: what the arbiter does at the end of a step. -/
theorem arbitrate_port (s : State) :
    s.arbitrate.mpa.port
      = if s.mpa.port.isSome || s.mpa.hold || decide (4 ≤ s.entriesStanding) then s.mpa.port
        else chooseGrant s.irRequest s.procPort.access.isSome s.scanPort.access.isSome s.mpa.previousIR
          s.mpa.lastMaster := by
  unfold State.arbitrate
  split <;> simp_all

@[simp] theorem arbitrate_lastMaster (s : State) : s.arbitrate.mpa.lastMaster = s.mpa.lastMaster := by
  unfold State.arbitrate; split <;> rfl

@[simp] theorem arbitrate_previousIR (s : State) : s.arbitrate.mpa.previousIR = s.mpa.previousIR := by
  unfold State.arbitrate; split <;> rfl

@[simp] theorem arbitrate_hold (s : State) : s.arbitrate.mpa.hold = s.mpa.hold := by
  unfold State.arbitrate; split <;> rfl

@[simp] theorem arbitrate_zeroNext (s : State) : s.arbitrate.mpa.zeroNext = s.mpa.zeroNext := by
  unfold State.arbitrate; split <;> rfl

@[simp] theorem react_lastMaster (s : State) : s.react.mpa.lastMaster = s.mpa.lastMaster := by
  simp [State.react]

@[simp] theorem react_previousIR (s : State) : s.react.mpa.previousIR = s.mpa.previousIR := by
  simp [State.react]

@[simp] theorem react_hold (s : State) : s.react.mpa.hold = s.mpa.hold := by simp [State.react]

@[simp] theorem react_zeroNext (s : State) : s.react.mpa.zeroNext = s.mpa.zeroNext := by simp [State.react]

theorem react_cause (s : State) : s.react.cause = s.beginPublication.cause := by simp [State.react]

/-- R169: the reaction touches nothing of the cause unit but the beginning of a publication. -/
theorem beginPublication_cause (s : State) :
    s.beginPublication.cause
      = if s.cause.publication = .idle && s.publicationDue then { s.cause with publication := .raising }
        else s.cause := by
  unfold State.beginPublication
  split <;> rfl

@[simp] theorem react_int (s : State) : s.react.cause.int = s.cause.int := by
  rw [react_cause, beginPublication_cause]; split <;> rfl

@[simp] theorem react_vector (s : State) : s.react.cause.vector = s.cause.vector := by
  rw [react_cause, beginPublication_cause]; split <;> rfl

@[simp] theorem react_pendingSet (s : State) : s.react.cause.pendingSet = s.cause.pendingSet := by
  rw [react_cause, beginPublication_cause]; split <;> rfl

@[simp] theorem react_enableSet (s : State) : s.react.cause.enableSet = s.cause.enableSet := by
  rw [react_cause, beginPublication_cause]; split <;> rfl

@[simp] theorem react_working (s : State) : s.react.cause.working = s.cause.working := by
  rw [react_cause, beginPublication_cause]; split <;> rfl

@[simp] theorem react_arrivals (s : State) : s.react.cause.arrivals = s.cause.arrivals := by
  rw [react_cause, beginPublication_cause]; split <;> rfl

/-- R151: the reaction leaves the stream alone. -/
@[simp] theorem react_entries (s : State) : s.react.entriesStanding = s.entriesStanding := by
  simp [State.entriesStanding]

/-- A step that takes place answers the reaction of its effect. -/
theorem done_eq (s : State) : s.done = .next s.react := rfl

end Sys2Proof.Machine
end

