-- ==== Sys2Proof/Laws/Engine.lean ====
section
/-! SUPPORT. What the quest engine and the timer unit leave alone, said once for each operation, and how a run of the
engine's parts unfolds. -/

namespace Sys2Proof.Machine

open Sys2Proof

/-! ### The frame of the timer unit and of the engine -/

/-- The state without what the engine's parts may change: quests, timers, the trigger queue, the causes, BEAT_OUT, the
notice writer, the work item, the effect unit and the command unit. -/
def State.outsideEngine (s : State) : State :=
  { s with
    quests := Vector.replicate 32 Quest.cleared, timers := Vector.replicate 8 Timer.cleared, queue := [],
    cause := State.reset.cause, beatOut := false, notice := State.reset.notice, work := none, effectUnit := .idle,
    cmd := .idle }

/-- The state after an operation differs from the one before only in what the engine's parts may change. -/
def EngineKeeps (s t : State) : Prop := t.outsideEngine = s.outsideEngine

theorem EngineKeeps.refl (s : State) : EngineKeeps s s := rfl

theorem EngineKeeps.trans {s t u : State} (h1 : EngineKeeps s t) (h2 : EngineKeeps t u) : EngineKeeps s u :=
  Eq.trans h2 h1

theorem keeps_ite {c : Prop} [Decidable c] {s t u : State} (ht : EngineKeeps s t) (hu : EngineKeeps s u) :
    EngineKeeps s (if c then t else u) := by
  split
  · exact ht
  · exact hu

/-- An operation kept through a fold over a list. -/
theorem EngineKeeps.foldl {α : Type} (f : State → α → State) (hf : ∀ s a, EngineKeeps s (f s a)) (l : List α) :
    ∀ s, EngineKeeps s (l.foldl f s) := by
  induction l with
  | nil => exact fun s => EngineKeeps.refl s
  | cons a rest ih => exact fun s => (hf s a).trans (ih (f s a))

theorem keeps_updQuest (s : State) (q : Fin 32) (f : Quest → Quest) : EngineKeeps s (s.updQuest q f) := rfl

theorem keeps_updTimer (s : State) (t : Fin 8) (f : Timer → Timer) : EngineKeeps s (s.updTimer t f) := rfl

theorem keeps_raise (s : State) (c : CauseSet) : EngineKeeps s (s.raise c) := rfl

theorem keeps_withTask (s : State) (w : WorkItem) (k : Task) : EngineKeeps s (s.withTask w k) := rfl

theorem keeps_report (s : State) (st : Status) (rs : List Word) : EngineKeeps s (s.report st rs) := rfl

theorem keeps_takeCommand (s : State) : EngineKeeps s s.takeCommand := by
  unfold State.takeCommand; cases s.cmd <;> rfl

/-! Each operation after others: what the state was before them is kept. -/

theorem after_updQuest {s t : State} (h : EngineKeeps s t) (q : Fin 32) (f : Quest → Quest) :
    EngineKeeps s (t.updQuest q f) :=
  h.trans (rfl)

theorem after_updTimer {s t : State} (h : EngineKeeps s t) (k : Fin 8) (f : Timer → Timer) :
    EngineKeeps s (t.updTimer k f) :=
  h.trans (rfl)

theorem after_raise {s t : State} (h : EngineKeeps s t) (c : CauseSet) :
    EngineKeeps s (t.raise c) :=
  h.trans (rfl)

theorem after_withTask {s t : State} (h : EngineKeeps s t) (w : WorkItem) (k : Task) :
    EngineKeeps s (t.withTask w k) :=
  h.trans (rfl)

theorem after_report {s t : State} (h : EngineKeeps s t) (st : Status) (rs : List Word) :
    EngineKeeps s (t.report st rs) :=
  h.trans (rfl)

theorem after_takeCommand {s t : State} (h : EngineKeeps s t) : EngineKeeps s t.takeCommand :=
  h.trans (keeps_takeCommand t)

theorem keeps_expire (s : State) (t : Fin 8) : EngineKeeps s (s.expire t) := rfl

theorem keeps_settleTimers (s : State) : EngineKeeps s s.settleTimers :=
  EngineKeeps.foldl _ (fun s t => keeps_ite (keeps_expire s t) (EngineKeeps.refl s)) _ s

theorem keeps_examineRing (s : State) : EngineKeeps s s.examineRing := by
  unfold State.examineRing
  split
  · exact keeps_ite rfl rfl
  all_goals rfl

theorem after_handNotice {s t : State} (h : EngineKeeps s t) (n : Notice) : EngineKeeps s (t.handNotice n) := by
  refine h.trans ?_
  unfold State.handNotice
  refine keeps_ite (EngineKeeps.trans
      (t := { t with notice := { t.notice with hold := t.notice.hold ++ [{ n with turn := t.page.turn }] } })
      rfl (keeps_examineRing _)) rfl

theorem after_dropBound {s t : State} (h : EngineKeeps s t) (b : Option (Fin 32)) (q : Fin 32) :
    EngineKeeps s (t.dropBound b q) := by
  refine h.trans ?_
  unfold State.dropBound
  split
  · rfl
  · exact keeps_ite rfl rfl

theorem after_bindTimer {s t : State} (h : EngineKeeps s t) (q : Fin 32) (k : Fin 8) :
    EngineKeeps s (t.bindTimer q k) := by
  refine (h.trans (keeps_settleTimers t)).trans ?_
  unfold State.bindTimer
  simp only
  exact keeps_ite (EngineKeeps.refl _)
    (after_updQuest (after_updTimer (after_dropBound (EngineKeeps.refl _) _ _) _ _) _ _)

theorem after_release {s t : State} (h : EngineKeeps s t) (q : Fin 32) : EngineKeeps s (t.release q) := by
  refine h.trans ?_
  unfold State.release
  split
  · rfl
  · exact after_updQuest (after_updTimer (keeps_settleTimers t) _ _) _ _

theorem after_endWork {s t : State} (h : EngineKeeps s t) (w : WorkItem) : EngineKeeps s (t.endWork w) := by
  refine h.trans ?_
  unfold State.endWork
  split <;> rfl

theorem after_enterStep {s t : State} (h : EngineKeeps s t) (w : WorkItem) (q : Fin 32) (i : Nat) :
    EngineKeeps s (t.enterStep w q i) := by
  refine h.trans ?_
  unfold State.enterStep
  simp only
  refine after_withTask ?_ _ _
  split
  · exact keeps_updQuest t q _
  · exact after_bindTimer (keeps_updQuest t q _) _ _

theorem after_beginQuest {s t : State} (h : EngineKeeps s t) (w : WorkItem) (q : Fin 32) (d : Nat) :
    EngineKeeps s (t.beginQuest w q d) :=
  after_enterStep (after_updQuest h _ _) _ _ _

theorem after_requestEffect {s t : State} (h : EngineKeeps s t) (w : WorkItem) (q : Fin 32) (i : Nat)
    (outs : List EffectResult) : EngineKeeps s (t.requestEffect w q i outs) := by
  refine h.trans ?_
  unfold State.requestEffect
  refine keeps_ite ?_ rfl
  split <;> rfl

theorem after_makeCall {s t : State} (h : EngineKeeps s t) (w : WorkItem) (p c : Fin 32) :
    EngineKeeps s (t.makeCall w p c) := by
  refine h.trans ?_
  unfold State.makeCall
  split
  · rfl
  · exact after_beginQuest (after_updQuest (keeps_updQuest t p _) _ _) _ _ _

theorem after_finishPass {s t : State} (h : EngineKeeps s t) (w : WorkItem) (q : Fin 32)
    (outs : List EffectResult) : EngineKeeps s (t.finishPass w q outs) := by
  refine h.trans ?_
  unfold State.finishPass
  simp only
  split
  · exact after_withTask (keeps_ite (after_handNotice rfl _) rfl) _ _
  · exact after_makeCall (keeps_ite (after_handNotice rfl _) rfl) _ _ _

theorem after_advanceQuest {s t : State} (h : EngineKeeps s t) (w : WorkItem) (q : Fin 32) (how : Ended) :
    EngineKeeps s (t.advanceQuest w q how) := by
  refine h.trans ?_
  unfold State.advanceQuest
  refine keeps_ite (after_enterStep rfl _ _ _) ?_
  simp only
  split
  · exact after_withTask (after_handNotice rfl _) _ _
  · exact after_withTask (after_updQuest (after_updQuest (after_handNotice rfl _) _ _) _ _) _ _

theorem after_timeoutQuest {s t : State} (h : EngineKeeps s t) (w : WorkItem) (q : Fin 32) :
    EngineKeeps s (t.timeoutQuest w q) := by
  refine h.trans ?_
  unfold State.timeoutQuest
  simp only
  split
  · exact after_withTask (after_release rfl _) _ _
  · exact after_withTask (keeps_ite (after_handNotice (after_release rfl _) _) (after_release rfl _)) _ _
  · exact after_withTask (after_handNotice (after_release rfl _) _) _ _

theorem after_failQuest {s t : State} (h : EngineKeeps s t) (w : WorkItem) (q : Fin 32) (reason : FailReason)
    (timer : Option (Fin 8)) (upTo : Option (Fin 32)) : EngineKeeps s (t.failQuest w q reason timer upTo) := by
  refine h.trans ?_
  unfold State.failQuest
  simp only
  split
  · exact after_withTask (after_updQuest (after_handNotice (after_updQuest (after_release rfl _) _ _) _) _ _) _ _
  · exact after_withTask (after_updQuest (after_updQuest (after_updQuest
      (after_handNotice (after_updQuest (after_release rfl _) _ _) _) _ _) _ _) _ _) _ _

theorem after_nextVisit {s t : State} (h : EngineKeeps s t) (w : WorkItem) : EngineKeeps s (t.nextVisit w) := by
  refine h.trans ?_
  unfold State.nextVisit
  split
  · exact after_endWork rfl w
  · split <;> rfl

/-- What one part of a work item leaves alone. -/
theorem keeps_engineStep (s : State) (w : WorkItem) : EngineKeeps s (s.engineStep w) := by
  unfold State.engineStep
  split
  · exact after_nextVisit rfl w
  · exact after_withTask (after_release rfl _) _ _
  · exact after_requestEffect rfl _ _ _ _
  · rfl
  · exact after_finishPass rfl _ _ _
  · exact after_advanceQuest rfl _ _ _
  · exact after_timeoutQuest rfl _ _
  · exact after_failQuest rfl _ _ _ _ _

theorem keeps_runParts (n : Nat) : ∀ s, EngineKeeps s (runParts n s) := by
  induction n with
  | zero => exact fun s => EngineKeeps.refl s
  | succ n ih =>
    intro s
    unfold runParts
    split
    · rfl
    · exact keeps_ite rfl ((keeps_engineStep s _).trans (ih _))

theorem keeps_runEngine (s : State) : EngineKeeps s s.runEngine := keeps_runParts _ s

theorem keeps_effectReported (s : State) (r : EffectResult) : EngineKeeps s (s.effectReported r) := by
  unfold State.effectReported
  split
  · rfl
  · split
    · exact (after_withTask rfl _ _).trans (keeps_runEngine _)
    all_goals rfl

theorem keeps_beginWork (s : State) (source : Source) (d p : Nat) (v : List (Fin 32)) (k : Task) :
    EngineKeeps s (s.beginWork source d p v k) :=
  EngineKeeps.trans
    (t := { s with work := some { source := source, depth := d, player := p, visits := v, task := k } }) rfl
    (keeps_runEngine _)

/-! ### Fields that the engine leaves alone -/

theorem EngineKeeps.mem_eq {s t : State} (h : EngineKeeps s t) : t.mem = s.mem := by
  have e : t.outsideEngine.mem = s.outsideEngine.mem := by rw [h]
  exact e
theorem EngineKeeps.mpa_eq {s t : State} (h : EngineKeeps s t) : t.mpa = s.mpa := by
  have e : t.outsideEngine.mpa = s.outsideEngine.mpa := by rw [h]
  exact e
theorem EngineKeeps.stream_eq {s t : State} (h : EngineKeeps s t) : t.stream = s.stream := by
  have e : t.outsideEngine.stream = s.outsideEngine.stream := by rw [h]
  exact e
theorem EngineKeeps.watches_eq {s t : State} (h : EngineKeeps s t) : t.watches = s.watches := by
  have e : t.outsideEngine.watches = s.outsideEngine.watches := by rw [h]
  exact e
theorem EngineKeeps.steps_eq {s t : State} (h : EngineKeeps s t) : t.steps = s.steps := by
  have e : t.outsideEngine.steps = s.outsideEngine.steps := by rw [h]
  exact e
theorem EngineKeeps.effects_eq {s t : State} (h : EngineKeeps s t) : t.effects = s.effects := by
  have e : t.outsideEngine.effects = s.outsideEngine.effects := by rw [h]
  exact e
theorem EngineKeeps.page_eq {s t : State} (h : EngineKeeps s t) : t.page = s.page := by
  have e : t.outsideEngine.page = s.outsideEngine.page := by rw [h]
  exact e
theorem EngineKeeps.regions_eq {s t : State} (h : EngineKeeps s t) : t.regions = s.regions := by
  have e : t.outsideEngine.regions = s.outsideEngine.regions := by rw [h]
  exact e
theorem EngineKeeps.pending_eq {s t : State} (h : EngineKeeps s t) : t.pending = s.pending := by
  have e : t.outsideEngine.pending = s.outsideEngine.pending := by rw [h]
  exact e
theorem EngineKeeps.syncRead_eq {s t : State} (h : EngineKeeps s t) : t.syncRead = s.syncRead := by
  have e : t.outsideEngine.syncRead = s.outsideEngine.syncRead := by rw [h]
  exact e
theorem EngineKeeps.watchReset_eq {s t : State} (h : EngineKeeps s t) : t.watchReset = s.watchReset := by
  have e : t.outsideEngine.watchReset = s.outsideEngine.watchReset := by rw [h]
  exact e
theorem EngineKeeps.fault_eq {s t : State} (h : EngineKeeps s t) : t.fault = s.fault := by
  have e : t.outsideEngine.fault = s.outsideEngine.fault := by rw [h]
  exact e
theorem EngineKeeps.reveal_eq {s t : State} (h : EngineKeeps s t) : t.reveal = s.reveal := by
  have e : t.outsideEngine.reveal = s.outsideEngine.reveal := by rw [h]
  exact e
theorem EngineKeeps.msz256_eq {s t : State} (h : EngineKeeps s t) : t.msz256 = s.msz256 := by
  have e : t.outsideEngine.msz256 = s.outsideEngine.msz256 := by rw [h]
  exact e
theorem EngineKeeps.cpselHigh_eq {s t : State} (h : EngineKeeps s t) : t.cpselHigh = s.cpselHigh := by
  have e : t.outsideEngine.cpselHigh = s.outsideEngine.cpselHigh := by rw [h]
  exact e
theorem EngineKeeps.gameReset_eq {s t : State} (h : EngineKeeps s t) : t.gameReset = s.gameReset := by
  have e : t.outsideEngine.gameReset = s.outsideEngine.gameReset := by rw [h]
  exact e
theorem EngineKeeps.procPort_eq {s t : State} (h : EngineKeeps s t) : t.procPort = s.procPort := by
  have e : t.outsideEngine.procPort = s.outsideEngine.procPort := by rw [h]
  exact e
theorem EngineKeeps.scanPort_eq {s t : State} (h : EngineKeeps s t) : t.scanPort = s.scanPort := by
  have e : t.outsideEngine.scanPort = s.outsideEngine.scanPort := by rw [h]
  exact e
theorem EngineKeeps.pendingRegion_eq {s t : State} (h : EngineKeeps s t) : t.pendingRegion = s.pendingRegion := by
  have e : t.outsideEngine.pendingRegion = s.outsideEngine.pendingRegion := by rw [h]
  exact e
theorem EngineKeeps.consumeIndex_eq {s t : State} (h : EngineKeeps s t) : t.consumeIndex = s.consumeIndex := by
  have e : t.outsideEngine.consumeIndex = s.outsideEngine.consumeIndex := by rw [h]
  exact e

/-! ### Unfolding a run -/

/-- The engine is settled: it has no work item, or it waits for an effect. -/
def State.engineSettled (s : State) : Prop := s.engineReady = false

/-- A settled engine does nothing more. -/
theorem runParts_settled (n : Nat) (s : State) (h : s.engineReady = false) : runParts n s = s := by
  cases n with
  | zero => rfl
  | succ n =>
    unfold runParts
    unfold State.engineReady at h
    split
    · rfl
    · rename_i w hw
      rw [hw] at h
      have hw' : w.task.waits = true := by simpa using h
      simp [hw']

/-- One part of a run. -/
theorem runParts_succ (n : Nat) (s : State) (w : WorkItem) (hw : s.work = some w) (h : w.task.waits = false) :
    runParts (n + 1) s = runParts n (s.engineStep w) := by
  rw [runParts]
  simp [hw, h]

/-- The first part of a run of the engine. -/
theorem runEngine_succ (s : State) (w : WorkItem) (hw : s.work = some w) (h : w.task.waits = false) :
    s.runEngine = runParts 0x3FFFFFF (s.engineStep w) := runParts_succ 0x3FFFFFF s w hw h

/-- The engine with nothing to do. -/
theorem runEngine_settled (s : State) (h : s.engineReady = false) : s.runEngine = s :=
  runParts_settled _ s h

end Sys2Proof.Machine
end

