-- ==== Sys2Proof/Laws/Flags.lean ====
section
/-! SUPPORT. The lanes, the fields and the tests of a watch, each said once: bit by bit for words, as the signed number for
a comparison, and by its word for an interception. -/

namespace Sys2Proof.Machine

open Sys2Proof

/-! ### Lanes and fields, bit by bit -/

/-- The mask of a set of lanes holds the bits of its lanes. -/
theorem mask_getLsbD (l : Lanes) (i : Nat) (hi : i < 32) : l.mask.getLsbD i = l.has (i / 8) := by
  obtain ⟨a, b, c, d⟩ := l
  have h : ∀ k : Fin 32, (Lanes.mask ⟨a, b, c, d⟩).getLsbD k.val = (Lanes.mk a b c d).has (k.val / 8) := by
    revert a b c d
    decide +kernel
  exact h ⟨i, hi⟩

/-- A merged word has the new bit in its lanes and the old bit elsewhere. -/
theorem mergeLanes_getLsbD (l : Lanes) (old new : Word) (i : Nat) (hi : i < 32) :
    (mergeLanes l old new).getLsbD i = if l.has (i / 8) = true then new.getLsbD i else old.getLsbD i := by
  unfold mergeLanes
  simp only [BitVec.getLsbD_or, BitVec.getLsbD_and, BitVec.getLsbD_not, mask_getLsbD l i hi, hi]
  cases l.has (i / 8) <;> simp

/-- The mask of a field holds the bits from its low bit on, as many as its width. -/
theorem fieldMask_getLsbD (low width i : Nat) (hi : i < 32) :
    (fieldMask low width).getLsbD i = (decide (low ≤ i) && decide (i < low + width)) := by
  unfold fieldMask
  rw [BitVec.getLsbD_ofNat, Nat.testBit_mul_two_pow, Nat.testBit_two_pow_sub_one]
  simp only [hi, decide_true, Bool.true_and]
  by_cases h : low ≤ i
  · have e : (i - low < width) ↔ (i < low + width) := by omega
    simp [h, e]
  · simp [h]

/-- A field of a word, zero-extended. -/
theorem extractField_getLsbD (w : Word) (low width i : Nat) (hi : i < 32) :
    (extractField w low width).getLsbD i = (decide (i < width) && w.getLsbD (low + i)) := by
  unfold extractField bits
  rw [BitVec.getLsbD_ofNat, Nat.testBit_mod_two_pow, Nat.testBit_div_two_pow, BitVec.testBit_toNat, Nat.add_comm i low]
  simp [hi]

/-- R100: the old value of an effect is the field of the word read. -/
theorem oldValue_getLsbD (j : EffectJob) (word : Word) (i : Nat) (h : j.record.lowBit + j.record.width ≤ 32) :
    (j.oldValue word).getLsbD i = (decide (i < j.record.width) && word.getLsbD (j.record.lowBit + i)) := by
  by_cases hi : i < 32
  · exact extractField_getLsbD _ _ _ _ hi
  · rw [BitVec.getLsbD_of_ge _ _ (by omega)]
    simp [show ¬i < j.record.width by omega]

/-! ### What a write does to a watched field (R6) -/

/-- A write touches a field where one of its lanes overlaps it. -/
theorem touchesField_iff (l : Lanes) (low width : Nat) (hw : 1 ≤ width) (h : low + width ≤ 32) :
    touchesField l low width = true ↔
      ∃ i, i < 4 ∧ l.has i = true ∧ low < 8 * i + 8 ∧ 8 * i < low + width := by
  unfold touchesField
  rw [bne_iff_ne]
  constructor
  · intro hne
    by_contra hno
    refine hne (BitVec.eq_of_getLsbD_eq fun i hi => ?_)
    rw [BitVec.getLsbD_and, mask_getLsbD l i hi, fieldMask_getLsbD low width i hi,
      show BitVec.getLsbD (0 : Word) i = false by simp]
    by_contra hb
    have hb' := Bool.eq_true_of_not_eq_false hb
    simp only [Bool.and_eq_true, decide_eq_true_eq] at hb'
    exact hno ⟨i / 8, by omega, hb'.2, by omega, by omega⟩
  · rintro ⟨i, hi, hl, h1, h2⟩ hz
    have hk : max low (8 * i) < 32 := by omega
    have hd : max low (8 * i) / 8 = i := by omega
    have hb : (fieldMask low width &&& l.mask).getLsbD (max low (8 * i)) = false := by
      rw [hz]
      simp
    rw [BitVec.getLsbD_and, mask_getLsbD l _ hk, fieldMask_getLsbD low width _ hk, hd, hl] at hb
    simp only [Bool.and_true, Bool.and_eq_false_iff, decide_eq_false_iff_not] at hb
    omega

/-- The shadow after a write: the data's bits in the written lanes, its own bits in the others. -/
theorem shadowAfter_getLsbD (low width : Nat) (l : Lanes) (data shadow : Word) (i : Nat) (h : low + width ≤ 32)
    (hi : i < 32) :
    (shadowAfter low width l data shadow).getLsbD i =
      (decide (i < width)
        && if l.has ((low + i) / 8) = true then data.getLsbD (low + i) else shadow.getLsbD i) := by
  unfold shadowAfter
  rw [extractField_getLsbD _ _ _ _ hi]
  by_cases hw : i < width
  · have hk : low + i < 32 := by omega
    rw [mergeLanes_getLsbD _ _ _ _ hk, BitVec.getLsbD_shiftLeft]
    simp [hk]
  · simp [hw]

/-! ### The comparisons of a watch (R3) -/

/-- The signed reading of a value at a width of 1 or more. -/
theorem signedAt_eq (width : Nat) (v : Word) (hw : 1 ≤ width) :
    signedAt width v =
      if v.toNat < 2 ^ (width - 1) then (v.toNat : Int) else (v.toNat : Int) - 2 ^ width := by
  obtain ⟨n, rfl⟩ : ∃ n, width = n + 1 := ⟨width - 1, by omega⟩
  have e : (2 * v.toNat < 2 ^ (n + 1)) ↔ (v.toNat < 2 ^ n) := by
    rw [Nat.pow_succ]
    omega
  unfold signedAt
  simp [e]

/-! ### Codes (12.3) -/

/-- Each code names what it was read from. -/
@[simp] theorem conditionOfCode_code (c : Condition) : conditionOfCode c.code = some c := by cases c <;> rfl

@[simp] theorem orderOfCode_code (o : OrderMode) : orderOfCode o.code = some o := by cases o <;> rfl

@[simp] theorem ownerOfCode_player (p : Fin 6) : ownerOfCode p.val = some (.player p) := by
  unfold ownerOfCode
  rw [dif_pos p.isLt]

@[simp] theorem ownerOfCode_code (o : Owner) : ownerOfCode o.code = some o := by
  cases o with
  | player p => exact ownerOfCode_player p
  | any => rfl

/-! ### Interception (R164) -/

@[simp] theorem interception_scan (s : State) (n : Nat) : s.interception .scan n = .passes := rfl

/-- A processor write passes to every word but the five that the part owns. -/
theorem interception_passes (s : State) (n : Nat) :
    s.interception .proc n = .passes ↔
      n ≠ s.pageBase ∧ n ≠ s.pageBase + 0x008 ∧ n ≠ s.pageBase + 0x024 ∧ n ≠ s.pageBase + 0x028
        ∧ n ≠ s.pageBase + 0x030 := by
  unfold State.interception State.pageAddr causeOff vectorOff consumeOff noticeProduceOff faultOff
  simp only [Nat.add_zero]
  repeat' split
  all_goals simp_all
  omega

end Sys2Proof.Machine
end

