-- ==== Sys2Proof/Laws/PerInstr.lean ====
section
/-! SUPPORT. The operands of every command: which of them the outside can send, and that no table word spells one. -/

namespace Sys2Proof.Laws.Operands

open Sys2Proof

/-- A command is well formed exactly when, if it presents an access (R146), the access's address is in the part's range
and a read carries no data; and no word of the opcode table spells it (log 30). -/
def Statement (i : Instr) : Prop :=
  (i.wf = true ↔
    ∀ m a, i = .masterRequest m a → a.addr.toNat < 0x100000 ∧ (a.dir = .read → a.data = 0))
  ∧ ∀ nbits w, decodeTableWord nbits w ≠ some i

/-- A command without an access is well formed whatever its operands are. -/
theorem of_wf (i : Instr) (h : i.wf = true) (h' : ∀ m a, i ≠ .masterRequest m a) : Statement i :=
  ⟨⟨fun _ m a e => absurd e (h' m a), fun _ => h⟩, fun _ _ e => by cases e⟩

theorem powerOnReset (msz256 cpselHigh : Bool) : Statement (.powerOnReset msz256 cpselHigh) :=
  of_wf _ rfl (fun _ _ e => by cases e)

theorem powerOnZeroWrite : Statement .powerOnZeroWrite :=
  of_wf _ rfl (fun _ _ e => by cases e)

theorem warmReset (asserted : Bool) : Statement (.warmReset asserted) :=
  of_wf _ rfl (fun _ _ e => by cases e)

theorem masterRequest (m : Master) (a : Access) : Statement (.masterRequest m a) := by
  refine ⟨?_, fun _ _ e => by cases e⟩
  have hw : (Instr.masterRequest m a).wf = (a.addressInRange && a.dataOnlyForWrite) := rfl
  rw [hw]
  constructor
  · intro h m' a' e
    injection e with _ e
    subst e
    simp only [Bool.and_eq_true, Access.addressInRange, Access.dataOnlyForWrite] at h
    refine ⟨by simpa using h.1, fun hd => ?_⟩
    have h2 := h.2
    rw [hd] at h2
    simpa using h2
  · intro h
    obtain ⟨h1, h2⟩ := h m a rfl
    simp only [Bool.and_eq_true, Access.addressInRange, Access.dataOnlyForWrite]
    refine ⟨by simpa using h1, ?_⟩
    cases hd : a.dir
    · simpa using h2 hd
    · rfl

theorem masterRead : Statement .masterRead :=
  of_wf _ rfl (fun _ _ e => by cases e)

theorem masterWrite : Statement .masterWrite :=
  of_wf _ rfl (fun _ _ e => by cases e)

theorem causeWordClear : Statement .causeWordClear :=
  of_wf _ rfl (fun _ _ e => by cases e)

theorem droppedControlWrite : Statement .droppedControlWrite :=
  of_wf _ rfl (fun _ _ e => by cases e)

theorem watchTakeWrite : Statement .watchTakeWrite :=
  of_wf _ rfl (fun _ _ e => by cases e)

theorem revealCopyUpdate : Statement .revealCopyUpdate :=
  of_wf _ rfl (fun _ _ e => by cases e)

theorem enableWordTaken : Statement .enableWordTaken :=
  of_wf _ rfl (fun _ _ e => by cases e)

theorem turnWordTaken : Statement .turnWordTaken :=
  of_wf _ rfl (fun _ _ e => by cases e)

theorem commandProduceIndex : Statement .commandProduceIndex :=
  of_wf _ rfl (fun _ _ e => by cases e)

theorem noticeConsumeIndex : Statement .noticeConsumeIndex :=
  of_wf _ rfl (fun _ _ e => by cases e)

theorem beat : Statement .beat :=
  of_wf _ rfl (fun _ _ e => by cases e)

theorem timerExpiry : Statement .timerExpiry :=
  of_wf _ rfl (fun _ _ e => by cases e)

theorem syncReadComplete : Statement .syncReadComplete :=
  of_wf _ rfl (fun _ _ e => by cases e)

theorem armWatch : Statement .armWatch :=
  of_wf _ rfl (fun _ _ e => by cases e)

theorem armBitWatch : Statement .armBitWatch :=
  of_wf _ rfl (fun _ _ e => by cases e)

theorem disarmWatch : Statement .disarmWatch :=
  of_wf _ rfl (fun _ _ e => by cases e)

theorem resyncWatch : Statement .resyncWatch :=
  of_wf _ rfl (fun _ _ e => by cases e)

theorem readWatch : Statement .readWatch :=
  of_wf _ rfl (fun _ _ e => by cases e)

theorem defineSteps : Statement .defineSteps :=
  of_wf _ rfl (fun _ _ e => by cases e)

theorem defineEffects : Statement .defineEffects :=
  of_wf _ rfl (fun _ _ e => by cases e)

theorem loadQuest : Statement .loadQuest :=
  of_wf _ rfl (fun _ _ e => by cases e)

theorem startQuest : Statement .startQuest :=
  of_wf _ rfl (fun _ _ e => by cases e)

theorem holdQuest : Statement .holdQuest :=
  of_wf _ rfl (fun _ _ e => by cases e)

theorem resumeQuest : Statement .resumeQuest :=
  of_wf _ rfl (fun _ _ e => by cases e)

theorem abandonQuest : Statement .abandonQuest :=
  of_wf _ rfl (fun _ _ e => by cases e)

theorem unloadQuest : Statement .unloadQuest :=
  of_wf _ rfl (fun _ _ e => by cases e)

theorem readQuest : Statement .readQuest :=
  of_wf _ rfl (fun _ _ e => by cases e)

theorem setTimer : Statement .setTimer :=
  of_wf _ rfl (fun _ _ e => by cases e)

theorem presetTimer : Statement .presetTimer :=
  of_wf _ rfl (fun _ _ e => by cases e)

theorem runTimer : Statement .runTimer :=
  of_wf _ rfl (fun _ _ e => by cases e)

theorem stopTimer : Statement .stopTimer :=
  of_wf _ rfl (fun _ _ e => by cases e)

theorem readTimer : Statement .readTimer :=
  of_wf _ rfl (fun _ _ e => by cases e)

theorem setRegion : Statement .setRegion :=
  of_wf _ rfl (fun _ _ e => by cases e)

theorem clearRegion : Statement .clearRegion :=
  of_wf _ rfl (fun _ _ e => by cases e)

theorem setNoticeRing : Statement .setNoticeRing :=
  of_wf _ rfl (fun _ _ e => by cases e)

theorem watchTriggerTake : Statement .watchTriggerTake :=
  of_wf _ rfl (fun _ _ e => by cases e)

theorem expiryTriggerTake : Statement .expiryTriggerTake :=
  of_wf _ rfl (fun _ _ e => by cases e)

theorem effectGrant : Statement .effectGrant :=
  of_wf _ rfl (fun _ _ e => by cases e)

theorem effectSettled : Statement .effectSettled :=
  of_wf _ rfl (fun _ _ e => by cases e)

theorem faultWordWrite : Statement .faultWordWrite :=
  of_wf _ rfl (fun _ _ e => by cases e)

theorem causeWordPublish : Statement .causeWordPublish :=
  of_wf _ rfl (fun _ _ e => by cases e)

theorem vectorWordPublish : Statement .vectorWordPublish :=
  of_wf _ rfl (fun _ _ e => by cases e)

theorem warmResetCauseWrite : Statement .warmResetCauseWrite :=
  of_wf _ rfl (fun _ _ e => by cases e)

theorem noticeElementWrite : Statement .noticeElementWrite :=
  of_wf _ rfl (fun _ _ e => by cases e)

theorem noticeProduceWrite : Statement .noticeProduceWrite :=
  of_wf _ rfl (fun _ _ e => by cases e)

theorem noticeRingIndexWrite : Statement .noticeRingIndexWrite :=
  of_wf _ rfl (fun _ _ e => by cases e)

theorem commandFetchRead : Statement .commandFetchRead :=
  of_wf _ rfl (fun _ _ e => by cases e)

theorem resultWordWrite : Statement .resultWordWrite :=
  of_wf _ rfl (fun _ _ e => by cases e)

theorem statusWordWrite : Statement .statusWordWrite :=
  of_wf _ rfl (fun _ _ e => by cases e)

theorem consumeIndexWrite : Statement .consumeIndexWrite :=
  of_wf _ rfl (fun _ _ e => by cases e)

end Sys2Proof.Laws.Operands
end

