-- ==== Sys2Proof/Laws/Watches.lean ====
section
/-! SUPPORT. The watch unit's request for a read, its warm reset, and the taking of a write: each with what it can do said
once. -/

namespace Sys2Proof.Machine

open Sys2Proof

/-! ### The request for a synchronising read (R13) -/

/-- R18, R20: the command that waits for a watch's read is one the watch unit has taken, and names the watch. -/
theorem armCommandWaits_iff (s : State) (w : Fin 64) :
    s.armCommandWaits w = true ↔
      ∃ words, s.cmd = .dispatched words true
        ∧ (codeOf words = 0x10 ∨ codeOf words = 0x11 ∨ codeOf words = 0x13)
        ∧ bits (wordAt words 2) 0 8 = w.val := by
  unfold State.armCommandWaits
  split <;> simp_all [or_assoc]

/-- Only the outstanding read changes. -/
theorem issueSync_eq (s : State) : s.issueSync = { s with syncRead := s.issueSync.syncRead } := by
  unfold State.issueSync
  repeat' split
  all_goals rfl

/-- With a read outstanding, or a warm reset to take, none is asked for. -/
theorem issueSync_waits (s : State) (h : s.syncRead ≠ none ∨ s.watchReset ≠ none) : s.issueSync = s := by
  unfold State.issueSync
  split
  · rfl
  · rfl
  · rename_i hr hs
    exact absurd h (by simp [hr, hs])

/-- Without a SYNCING watch none is asked for. -/
theorem issueSync_settled (s : State) (h : ∀ w : Fin 64, (s.watch w).state ≠ .syncing) : s.issueSync = s := by
  have hl : s.lowestSyncing = none := by
    unfold State.lowestSyncing
    rw [List.find?_eq_none]
    intro w _ hw
    exact h w (by simpa using hw)
  unfold State.issueSync
  rw [hl]
  repeat' split
  all_goals first | rfl | contradiction

/-! ### The watch unit's warm reset (R26; log 32) -/

/-- R26: what the warm reset makes of one watch. -/
theorem warmReset_watch (x : Watch) :
    x.warmReset = if x.state = .free then x else { x with state := .syncing, missed := false } := by
  unfold Watch.warmReset
  cases h : x.state <;> simp

/-- Only the watches, the outstanding read and the waiting reset change. -/
theorem takeWatchReset_eq (s : State) :
    s.takeWatchReset =
      { s with watches := s.watches.map Watch.warmReset, watchReset := none,
               syncRead := s.takeWatchReset.syncRead } := by
  unfold State.takeWatchReset
  rw [issueSync_eq]

@[simp] theorem takeWatchReset_watch (s : State) (w : Fin 64) :
    s.takeWatchReset.watch w = (s.watch w).warmReset := by
  rw [takeWatchReset_eq]
  simp [State.watch]

@[simp] theorem advanceWatchReset_none (s : State) (h : s.watchReset = none) : s.advanceWatchReset = s := by
  unfold State.advanceWatchReset
  rw [h]

/-- Only the watches, the outstanding read and the waiting reset change. -/
theorem advanceWatchReset_eq (s : State) :
    s.advanceWatchReset =
      { s with watches := s.advanceWatchReset.watches, watchReset := s.advanceWatchReset.watchReset,
               syncRead := s.advanceWatchReset.syncRead } := by
  unfold State.advanceWatchReset
  split
  · rfl
  · split
    · rw [takeWatchReset_eq]
    · rfl

/-- Each watch is as it was, or warm-reset with the reset taken. -/
theorem advanceWatchReset_watch (s : State) (w : Fin 64) :
    s.advanceWatchReset.watch w = s.watch w
      ∨ (s.advanceWatchReset.watchReset = none ∧ s.advanceWatchReset.watch w = (s.watch w).warmReset) := by
  unfold State.advanceWatchReset
  split
  · exact Or.inl rfl
  · split
    · refine Or.inr ⟨?_, takeWatchReset_watch s w⟩
      rw [takeWatchReset_eq]
    · exact Or.inl rfl

/-! The fields that the waiting reset leaves alone. -/

@[simp] theorem advanceWatchReset_pending (s : State) : s.advanceWatchReset.pending = s.pending := by
  rw [advanceWatchReset_eq]
@[simp] theorem advanceWatchReset_msz256 (s : State) : s.advanceWatchReset.msz256 = s.msz256 := by
  rw [advanceWatchReset_eq]
@[simp] theorem advanceWatchReset_cpselHigh (s : State) : s.advanceWatchReset.cpselHigh = s.cpselHigh := by
  rw [advanceWatchReset_eq]
@[simp] theorem advanceWatchReset_gameReset (s : State) : s.advanceWatchReset.gameReset = s.gameReset := by
  rw [advanceWatchReset_eq]
@[simp] theorem advanceWatchReset_mem (s : State) : s.advanceWatchReset.mem = s.mem := by
  rw [advanceWatchReset_eq]
@[simp] theorem advanceWatchReset_mpa (s : State) : s.advanceWatchReset.mpa = s.mpa := by
  rw [advanceWatchReset_eq]
@[simp] theorem advanceWatchReset_procPort (s : State) : s.advanceWatchReset.procPort = s.procPort := by
  rw [advanceWatchReset_eq]
@[simp] theorem advanceWatchReset_scanPort (s : State) : s.advanceWatchReset.scanPort = s.scanPort := by
  rw [advanceWatchReset_eq]
@[simp] theorem advanceWatchReset_stream (s : State) : s.advanceWatchReset.stream = s.stream := by
  rw [advanceWatchReset_eq]
@[simp] theorem advanceWatchReset_regions (s : State) : s.advanceWatchReset.regions = s.regions := by
  rw [advanceWatchReset_eq]
@[simp] theorem advanceWatchReset_pendingRegion (s : State) : s.advanceWatchReset.pendingRegion = s.pendingRegion := by
  rw [advanceWatchReset_eq]
@[simp] theorem advanceWatchReset_fault (s : State) : s.advanceWatchReset.fault = s.fault := by
  rw [advanceWatchReset_eq]
@[simp] theorem advanceWatchReset_reveal (s : State) : s.advanceWatchReset.reveal = s.reveal := by
  rw [advanceWatchReset_eq]
@[simp] theorem advanceWatchReset_page (s : State) : s.advanceWatchReset.page = s.page := by
  rw [advanceWatchReset_eq]
@[simp] theorem advanceWatchReset_cause (s : State) : s.advanceWatchReset.cause = s.cause := by
  rw [advanceWatchReset_eq]
@[simp] theorem advanceWatchReset_queue (s : State) : s.advanceWatchReset.queue = s.queue := by
  rw [advanceWatchReset_eq]
@[simp] theorem advanceWatchReset_quests (s : State) : s.advanceWatchReset.quests = s.quests := by
  rw [advanceWatchReset_eq]
@[simp] theorem advanceWatchReset_steps (s : State) : s.advanceWatchReset.steps = s.steps := by
  rw [advanceWatchReset_eq]
@[simp] theorem advanceWatchReset_work (s : State) : s.advanceWatchReset.work = s.work := by
  rw [advanceWatchReset_eq]
@[simp] theorem advanceWatchReset_effects (s : State) : s.advanceWatchReset.effects = s.effects := by
  rw [advanceWatchReset_eq]
@[simp] theorem advanceWatchReset_effectUnit (s : State) : s.advanceWatchReset.effectUnit = s.effectUnit := by
  rw [advanceWatchReset_eq]
@[simp] theorem advanceWatchReset_timers (s : State) : s.advanceWatchReset.timers = s.timers := by
  rw [advanceWatchReset_eq]
@[simp] theorem advanceWatchReset_beatOut (s : State) : s.advanceWatchReset.beatOut = s.beatOut := by
  rw [advanceWatchReset_eq]
@[simp] theorem advanceWatchReset_consumeIndex (s : State) : s.advanceWatchReset.consumeIndex = s.consumeIndex := by
  rw [advanceWatchReset_eq]
@[simp] theorem advanceWatchReset_cmd (s : State) : s.advanceWatchReset.cmd = s.cmd := by
  rw [advanceWatchReset_eq]
@[simp] theorem advanceWatchReset_notice (s : State) : s.advanceWatchReset.notice = s.notice := by
  rw [advanceWatchReset_eq]

/-- Only the watches, the outstanding read and the waiting reset change. -/
theorem placeWatchReset_eq (s : State) (n : Nat) :
    s.placeWatchReset n =
      { s with watches := (s.placeWatchReset n).watches, watchReset := (s.placeWatchReset n).watchReset,
               syncRead := (s.placeWatchReset n).syncRead } := by
  unfold State.placeWatchReset
  split
  · rfl
  · split
    · rw [takeWatchReset_eq]
    · rfl

@[simp] theorem placeWatchReset_pending (s : State) (n : Nat) : (s.placeWatchReset n).pending = s.pending := by
  rw [placeWatchReset_eq]
@[simp] theorem placeWatchReset_msz256 (s : State) (n : Nat) : (s.placeWatchReset n).msz256 = s.msz256 := by
  rw [placeWatchReset_eq]
@[simp] theorem placeWatchReset_cpselHigh (s : State) (n : Nat) : (s.placeWatchReset n).cpselHigh = s.cpselHigh := by
  rw [placeWatchReset_eq]
@[simp] theorem placeWatchReset_gameReset (s : State) (n : Nat) : (s.placeWatchReset n).gameReset = s.gameReset := by
  rw [placeWatchReset_eq]
@[simp] theorem placeWatchReset_mem (s : State) (n : Nat) : (s.placeWatchReset n).mem = s.mem := by
  rw [placeWatchReset_eq]
@[simp] theorem placeWatchReset_mpa (s : State) (n : Nat) : (s.placeWatchReset n).mpa = s.mpa := by
  rw [placeWatchReset_eq]
@[simp] theorem placeWatchReset_procPort (s : State) (n : Nat) : (s.placeWatchReset n).procPort = s.procPort := by
  rw [placeWatchReset_eq]
@[simp] theorem placeWatchReset_scanPort (s : State) (n : Nat) : (s.placeWatchReset n).scanPort = s.scanPort := by
  rw [placeWatchReset_eq]
@[simp] theorem placeWatchReset_stream (s : State) (n : Nat) : (s.placeWatchReset n).stream = s.stream := by
  rw [placeWatchReset_eq]
@[simp] theorem placeWatchReset_regions (s : State) (n : Nat) : (s.placeWatchReset n).regions = s.regions := by
  rw [placeWatchReset_eq]
@[simp] theorem placeWatchReset_pendingRegion (s : State) (n : Nat) : (s.placeWatchReset n).pendingRegion = s.pendingRegion := by
  rw [placeWatchReset_eq]
@[simp] theorem placeWatchReset_fault (s : State) (n : Nat) : (s.placeWatchReset n).fault = s.fault := by
  rw [placeWatchReset_eq]
@[simp] theorem placeWatchReset_reveal (s : State) (n : Nat) : (s.placeWatchReset n).reveal = s.reveal := by
  rw [placeWatchReset_eq]
@[simp] theorem placeWatchReset_page (s : State) (n : Nat) : (s.placeWatchReset n).page = s.page := by
  rw [placeWatchReset_eq]
@[simp] theorem placeWatchReset_cause (s : State) (n : Nat) : (s.placeWatchReset n).cause = s.cause := by
  rw [placeWatchReset_eq]
@[simp] theorem placeWatchReset_queue (s : State) (n : Nat) : (s.placeWatchReset n).queue = s.queue := by
  rw [placeWatchReset_eq]
@[simp] theorem placeWatchReset_quests (s : State) (n : Nat) : (s.placeWatchReset n).quests = s.quests := by
  rw [placeWatchReset_eq]
@[simp] theorem placeWatchReset_steps (s : State) (n : Nat) : (s.placeWatchReset n).steps = s.steps := by
  rw [placeWatchReset_eq]
@[simp] theorem placeWatchReset_work (s : State) (n : Nat) : (s.placeWatchReset n).work = s.work := by
  rw [placeWatchReset_eq]
@[simp] theorem placeWatchReset_effects (s : State) (n : Nat) : (s.placeWatchReset n).effects = s.effects := by
  rw [placeWatchReset_eq]
@[simp] theorem placeWatchReset_effectUnit (s : State) (n : Nat) : (s.placeWatchReset n).effectUnit = s.effectUnit := by
  rw [placeWatchReset_eq]
@[simp] theorem placeWatchReset_timers (s : State) (n : Nat) : (s.placeWatchReset n).timers = s.timers := by
  rw [placeWatchReset_eq]
@[simp] theorem placeWatchReset_beatOut (s : State) (n : Nat) : (s.placeWatchReset n).beatOut = s.beatOut := by
  rw [placeWatchReset_eq]
@[simp] theorem placeWatchReset_consumeIndex (s : State) (n : Nat) : (s.placeWatchReset n).consumeIndex = s.consumeIndex := by
  rw [placeWatchReset_eq]
@[simp] theorem placeWatchReset_cmd (s : State) (n : Nat) : (s.placeWatchReset n).cmd = s.cmd := by
  rw [placeWatchReset_eq]
@[simp] theorem placeWatchReset_notice (s : State) (n : Nat) : (s.placeWatchReset n).notice = s.notice := by
  rw [placeWatchReset_eq]

/-! ### The taking of a write (R5 to R11) -/

/-- A watch that the write does not reach leaves the state alone. -/
theorem watchTakes_unseen (s : State) (e : SnoopWrite) (w : Fin 64) (h : (s.watch w).sees e = false) :
    s.watchTakes e w = s := by
  unfold State.watchTakes
  simp [h]

/-- A watch that the write reaches and does not fire takes its observation. -/
theorem watchTakes_silent (s : State) (e : SnoopWrite) (w : Fin 64) (h : (s.watch w).sees e = true)
    (hf : (s.watch w).firesAt e = false) : s.watchTakes e w = s.updWatch w (fun x => x.observe e) := by
  unfold State.watchTakes
  simp [h, hf]

/-- A watch that the write fires takes its observation and then fires. -/
theorem watchTakes_fires (s : State) (e : SnoopWrite) (w : Fin 64) (h : (s.watch w).sees e = true)
    (hf : (s.watch w).firesAt e = true) :
    s.watchTakes e w =
      (s.updWatch w (fun x => x.observe e)).fireWatch w e.writer (firingDepth e) (s.watch w).shadow
        ((s.watch w).observe e).shadow := by
  unfold State.watchTakes
  simp [h, hf]

/-- The hand-over of a notice leaves the watches and the queue alone. -/
theorem handNotice_watches_queue (s : State) (n : Notice) :
    (s.handNotice n).watches = s.watches ∧ (s.handNotice n).queue = s.queue := by
  unfold State.handNotice
  split
  · unfold State.examineRing
    repeat' split
    all_goals exact ⟨rfl, rfl⟩
  · exact ⟨rfl, rfl⟩

/-- One watch's part of a write leaves the other watches alone. -/
theorem watchTakes_watch_other (s : State) (e : SnoopWrite) (w v : Fin 64) (h : v ≠ w) :
    (s.watchTakes e w).watch v = s.watch v := by
  unfold State.watchTakes State.fireWatch State.offerWatch
  have hn : ∀ (u : State) (n : Notice), (u.handNotice n).watch v = u.watch v := by
    intro u n
    unfold State.watch
    rw [(handNotice_watches_queue u n).1]
  have hq : ∀ (u : State) (q : List Trigger), State.watch { u with queue := q } v = u.watch v := fun _ _ => rfl
  have hr : ∀ (u : State) (c : CauseSet), (u.raise c).watch v = u.watch v := fun _ _ => rfl
  simp only
  repeat' split
  all_goals simp only [hn, hq, hr, updWatch_other _ _ _ _ h]

end Sys2Proof.Machine
end

