-- ==== Sys2Proof/Laws/Work.lean ====
section
/-! SUPPORT. What the engine's operations do to quests, and that they do not read the work item or the command: each
commutes with a change of these two. -/

namespace Sys2Proof.Machine

open Sys2Proof

/-! ### Quests and timers after an operation -/

/-- R120: after its expiry a timer has no expiry under way: it is STOPPED, or its count is its reload, which is not 0. -/
theorem afterExpiry_settled (t : Timer) : t.afterExpiry.expiryDue = false := by
  unfold Timer.afterExpiry Timer.expiryDue
  split
  · rfl
  · split
    · rfl
    · simp_all

/-- An expiry changes the record of its own timer alone. -/
theorem expire_timer_self (s : State) (k : Fin 8) : (s.expire k).timer k = (s.timer k).afterExpiry := by
  unfold State.expire
  rw [updTimer_self]
  rfl

theorem expire_timer_other (s : State) (k j : Fin 8) (h : j ≠ k) : (s.expire k).timer j = s.timer j := by
  unfold State.expire
  rw [updTimer_other _ _ _ _ h]
  rfl

/-- Timers with no expiry under way are passed over. -/
theorem settle_pass (l : List (Fin 8)) (s : State) (h : ∀ t ∈ l, (s.timer t).expiryDue = false) :
    l.foldl (fun s t => if (s.timer t).expiryDue then s.expire t else s) s = s := by
  induction l with
  | nil => rfl
  | cons x xs ih =>
    rw [List.foldl_cons, if_neg (by simp [h x (by simp)])]
    exact ih fun t ht => h t (List.mem_cons_of_mem x ht)

/-- R116: with no expiry under way there is nothing to settle. -/
theorem settleTimers_settled (s : State) (h : SettledTimers s) : s.settleTimers = s :=
  settle_pass _ s fun t _ => h t

/-- R119, log 9: the expiries under way are done lowest first: that of the lowest-numbered timer, then those left after
it. -/
theorem settleTimers_expire (s : State) (k : Fin 8) (hk : (s.timer k).expiryDue = true)
    (hlow : ∀ j : Fin 8, j < k → (s.timer j).expiryDue = false) : s.settleTimers = (s.expire k).settleTimers := by
  have hsplit : List.finRange 8 = (List.finRange 8).filter (· < k) ++ k :: (List.finRange 8).filter (k < ·) := by
    clear hk hlow
    revert k
    decide
  have below : ∀ j ∈ (List.finRange 8).filter (· < k), j < k := by simp
  unfold State.settleTimers
  rw [hsplit]
  simp only [List.foldl_append, List.foldl_cons]
  rw [settle_pass _ s fun j hj => hlow j (below j hj), settle_pass _ (s.expire k) fun j hj => by
      rw [expire_timer_other _ _ _ (ne_of_lt (below j hj))]
      exact hlow j (below j hj)]
  rw [if_pos hk, expire_timer_self, afterExpiry_settled]
  rfl

theorem settleTimers_quests (s : State) : s.settleTimers.quests = s.quests := by
  unfold State.settleTimers
  generalize List.finRange 8 = l
  induction l generalizing s with
  | nil => rfl
  | cons x xs ih =>
    simp only [List.foldl_cons]
    rw [ih]
    split <;> rfl

theorem settleTimers_quest (s : State) (q : Fin 32) : s.settleTimers.quest q = s.quest q := by
  unfold State.quest
  rw [settleTimers_quests]

/-- R124: a release clears the quest's side of the binding. -/
theorem release_quest_self (s : State) (q : Fin 32) : (s.release q).quest q = { s.quest q with bound := none } := by
  unfold State.release
  split
  · rename_i h
    rw [← h]
  · simp only
    rw [updQuest_self, ← settleTimers_quest s q]
    generalize s.settleTimers = u
    rfl

theorem release_quest_other (s : State) (q p : Fin 32) (h : p ≠ q) : (s.release q).quest p = s.quest p := by
  unfold State.release
  split
  · rfl
  · simp only
    rw [updQuest_other _ _ _ _ h, ← settleTimers_quest s p]
    generalize s.settleTimers = u
    rfl

theorem release_unbound (s : State) (q : Fin 32) (h : (s.quest q).bound = none) : s.release q = s := by
  unfold State.release
  rw [h]

theorem handNotice_quest (s : State) (n : Notice) (q : Fin 32) : (s.handNotice n).quest q = s.quest q := by
  unfold State.quest
  rw [handNotice_quests]

/-! ### The work item and the command are not read -/

/-- A state with another work item and another command. -/
def State.setWork (s : State) (w : Option WorkItem) (c : CmdState) : State := { s with work := w, cmd := c }

theorem setWork_withTask (s : State) (w : Option WorkItem) (c : CmdState) (v : WorkItem) (k : Task) :
    (s.setWork w c).withTask v k = s.setWork (some { v with task := k }) c := rfl

theorem setWork_setWork (s : State) (w v : Option WorkItem) (c d : CmdState) :
    (s.setWork w c).setWork v d = s.setWork v d := rfl

theorem setWork_updQuest (s : State) (w : Option WorkItem) (c : CmdState) (q : Fin 32) (f : Quest → Quest) :
    (s.setWork w c).updQuest q f = (s.updQuest q f).setWork w c := rfl

theorem setWork_expire (s : State) (w : Option WorkItem) (c : CmdState) (t : Fin 8) :
    (s.setWork w c).expire t = (s.expire t).setWork w c := rfl

theorem setWork_settleTimers (s : State) (w : Option WorkItem) (c : CmdState) :
    (s.setWork w c).settleTimers = s.settleTimers.setWork w c := by
  unfold State.settleTimers
  generalize List.finRange 8 = l
  induction l generalizing s with
  | nil => rfl
  | cons x xs ih =>
    simp only [List.foldl_cons]
    rw [← ih]
    congr 1
    have h : (s.setWork w c).timer x = s.timer x := rfl
    rw [h]
    split
    · exact setWork_expire s w c x
    · rfl

theorem setWork_release (s : State) (w : Option WorkItem) (c : CmdState) (q : Fin 32) :
    (s.setWork w c).release q = (s.release q).setWork w c := by
  unfold State.release
  have h : (s.setWork w c).quest q = s.quest q := rfl
  rw [h]
  cases (s.quest q).bound
  · rfl
  · simp only
    rw [setWork_settleTimers]
    generalize s.settleTimers = u
    rfl

theorem setWork_dropBound (s : State) (w : Option WorkItem) (c : CmdState) (b : Option (Fin 32)) (q : Fin 32) :
    (s.setWork w c).dropBound b q = (s.dropBound b q).setWork w c := by
  unfold State.dropBound
  split
  · rfl
  · split <;> rfl

theorem setWork_bindTimer (s : State) (w : Option WorkItem) (c : CmdState) (q : Fin 32) (t : Fin 8) :
    (s.setWork w c).bindTimer q t = (s.bindTimer q t).setWork w c := by
  unfold State.bindTimer
  simp only [setWork_settleTimers]
  generalize s.settleTimers = u
  have h : (u.setWork w c).timer t = u.timer t := rfl
  rw [h]
  split
  · rfl
  · rw [setWork_dropBound]
    generalize u.dropBound (u.timer t).binder q = v
    rfl

theorem setWork_examineRing (s : State) (w : Option WorkItem) (c : CmdState) :
    (s.setWork w c).examineRing = s.examineRing.setWork w c := by
  unfold State.examineRing
  have h : (s.setWork w c).notice = s.notice := rfl
  have h2 : (s.setWork w c).ringRoom = s.ringRoom := rfl
  rw [h, h2]
  split
  · split <;> rfl
  all_goals rfl

theorem setWork_handNotice (s : State) (w : Option WorkItem) (c : CmdState) (n : Notice) :
    (s.setWork w c).handNotice n = (s.handNotice n).setWork w c := by
  unfold State.handNotice
  have h : (s.setWork w c).notice = s.notice := rfl
  rw [h]
  split
  · exact setWork_examineRing
      { s with notice := { s.notice with hold := s.notice.hold ++ [{ n with turn := s.page.turn }] } } w c
  · rfl

end Sys2Proof.Machine
end

