-- ==== Sys2Proof/Tests/Slice0.lean ====
section
/-! SUPPORT. Small tests: the well-formedness smoke, a result of each command from the spec's own examples, and for every
statement a state and operands that meet its hypotheses, clause by clause, at the edges of their ranges. -/

set_option Elab.async false

namespace Sys2Proof.Tests

open Sys2Proof Sys2Proof.Machine

/-! ### Helpers -/

/-- The part once the thirteen zero writes are done. -/
def up : State :=
  { State.reset with
    mpa := { port := none, lastMaster := .scan, previousIR := false, hold := false, zeroNext := 13 } }

/-- The first words of a command block: code and length, the status word, and the data words. -/
def block (code len : Nat) (data : List Nat) : List Word :=
  BitVec.ofNat 32 (code + 0x10000 * len) :: 0 :: data.map (BitVec.ofNat 32)

/-- The command unit has handed over a block. -/
def given (s : State) (words : List Word) : State := { s with cmd := .dispatched words false }

/-- A command answers a next state of which `p` holds. -/
def ends (c : Instr) (s : State) (p : State → Bool) : Bool :=
  match exec c s with
  | .next t => p t
  | .fault _ => false
  | .refused _ => false

/-- A command answers the given report. -/
def reports (c : Instr) (s : State) (st : Status) (rs : List Word) : Bool :=
  ends c s (fun t => t.cmd == .reporting st 3 rs)

/-- A write that the three blocks have yet to take, as the only item of the stream. -/
def streamed (s : State) (e : SnoopWrite) : State :=
  { s with stream := [{ body := .write e, watchDue := true, fogDue := true, pageDue := true }] }

/-- A word write with all lanes. -/
def wrote (a : Nat) (w : Word) (by' : Writer) : SnoopWrite :=
  { addr := a, lanes := Lanes.all, data := w, writer := by', depth := 0, atPowerOn := false }

/-- Watch 3: bits 8 to 15 of the word at 0x2000, above 10, for PROC and EFFECT. -/
def sampleWatch : Watch :=
  { state := .armed, addr := 0x2000, lowBit := 8, width := 8, condition := .above, operand := 10,
    filter := ⟨true, false, true⟩, notify := false, fireOnArm := false, shadow := 5, truth := false,
    missed := false }

def watching : State := up.updWatch 3 (fun _ => sampleWatch)

/-- Watches 3 and 7 on the same field. -/
def twins : State := watching.updWatch 7 (fun _ => sampleWatch)

/-- A bound quest: Q1 stands ACTIVE at step 0 of two, on trigger W3, with timer T2 bound. -/
def sampleQuest : Quest :=
  { state := .active, firstStep := 4, stepCount := 2, current := 0, order := .strict, owner := .any, tag := 7,
    parent := none, child := none, depth := 0, bound := some 2, late := false, reason := none }

def sampleStep (trigger : Option (Fin 64)) (timer : Option (Fin 8)) : StepRec :=
  { trigger := trigger, guard := none, gated := false, timer := timer, action := .note, firstEffect := 0,
    effectCount := 0, call := none, notify := false }

def sampleTimer : Timer :=
  { reload := 9, count := 4, state := .running, clock := .beat, mode := .oneShot, route := false,
    binder := some 1 }

def questing : State :=
  { watching with
    quests := watching.quests.set 1 sampleQuest
    steps := (watching.steps.set 4 (sampleStep (some 3) (some 2))).set 5 (sampleStep (some 6) none)
    timers := watching.timers.set 2 sampleTimer }

/-- A master's grant in progress. -/
def granted (s : State) (m : Master) (a : Access) : State :=
  { s.setPort m { access := some a, data := 0x55 } with
    mpa := { s.mpa with port := some (.master m) } }

def readOf (a : Nat) (z : AccessSize) : Access := { addr := BitVec.ofNat 32 a, dir := .read, size := z, data := 0 }

def writeOf (a : Nat) (z : AccessSize) (w : Word) : Access :=
  { addr := BitVec.ofNat 32 a, dir := .write, size := z, data := w }

/-- The internal requester's grant in progress. -/
def serving (s : State) (a : IRAccess) : State := { s with mpa := { s.mpa with port := some (.ir a) } }

/-- The trigger queue with `n` WATCH entries. -/
def filled (s : State) (n : Nat) : State := { s with queue := List.replicate n (.watch 9 .proc 0) }

/-- A write of byte 1 of the watched word. With 0x0C the truth of "above 10" goes from FALSE to TRUE; the watch's filter
accepts PROC and EFFECT only. -/
def byteWrite (by' : Writer) (v depth : Nat) : SnoopWrite :=
  { addr := 0x2000, lanes := ⟨false, true, false, false⟩, data := BitVec.ofNat 32 (0x100 * v), writer := by',
    depth := depth, atPowerOn := false }

/-- A work item at a part of quest Q1's step. -/
def working (s : State) (t : Task) : WorkItem :=
  { source := .watch 3 .proc 0, depth := 0, player := s.page.turn.toNat % 16, visits := [], task := t }

def jobOf (k : EffectKind) (low width : Nat) (value : Int) (captured : Word) : EffectJob :=
  { record := { kind := k, addr := 0x1000, lowBit := low, width := width, value := BitVec.ofInt 32 value, ref := none },
    depth := 3, captured := captured }

/-- The effect unit waits for the grant of a job, which is in progress; the engine waits for the outcome. -/
def granting (s : State) (j : EffectJob) : State :=
  { serving s .effectRmw with effectUnit := .grantWait j, work := some (working s (.awaiting 1 0 [])) }

/-- A publication at one of its writes. -/
def publishing (p : Publication) (a : IRAccess) : State :=
  { serving up a with
    fault := ⟨.scan, .write, 0x1F000⟩
    cause := { up.cause with working := 0x401, arrivals := 0x0800, handed := 0x0C00, publication := p } }

/-- The part with a ring of 8 notices at 0x6000. -/
def ringed : State :=
  { up with notice := { up.notice with ringSet := true, base := 0x6000, size := 8, produce := 5 } }

/-- A notice of Q3's step 1, with effects DONE and DENIED (12.8: statuses 0xF8). -/
def sampleNotice : Notice :=
  { kind := .stepPassed, number := 3, step := some 1, owner := some (.player 2), tag := 0x303,
    statuses := [.done, .denied], ended := some .passed, reason := none, timer := none, offer := none, old := 4,
    new := 5, source := .watch 5 .scan 1, turn := 0x102, parent := none, child := some 7, depth := 0 }

/-- The notice writer at word `k` of element 7 of its ring of 8. -/
def elementAt (k : Nat) : State :=
  let n := { ringed.notice with produce := 7, writer := .writing k, element := some sampleNotice }
  { serving ringed .elementWrite with notice := n }

/-- A fetch of word 0 or 2 of the slot 31. -/
def fetching (words : List Word) (w : Nat) : State :=
  let a := 0x800 + 64 * 31 + 4 * words.length
  { serving { up with consumeIndex := 31, mem := writeWord [] a (BitVec.ofNat 32 w) } .fetchRead with
    cmd := .fetching words }

/-- The command unit reports the answer of the command in slot 31. -/
def answering (a : IRAccess) (results : List Word) : State :=
  { serving { up with consumeIndex := 31 } a with
    cmd := .reporting .inUse 3 results, pendingRegion := some (15, { Region.cleared with enabled := true }) }

/-- Watch 3 SYNCING with its read outstanding; the host's ARM WATCH waits for it. -/
def syncing (stale : Bool) : State :=
  { given (watching.updWatch 3 fun x => { x with state := .syncing, fireOnArm := true })
      (block 0x10 24 [0x00010403, 0x2000, 0x0808, 10]) with
    mem := writeWord [] 0x2000 0x00000C00
    cmd := .dispatched (block 0x10 24 [0x00010403, 0x2000, 0x0808, 10]) true
    syncRead := some { watch := 3, addr := 0x2000, completed := false, stale := stale } }

/-- The completion of that read stands in the stream. -/
def completed (stale : Bool) : State :=
  { syncing stale with
    syncRead := some { watch := 3, addr := 0x2000, completed := true, stale := stale }
    stream := [{ body := .syncMark 0x00000C00, watchDue := true, fogDue := false, pageDue := false }] }

/-- An effect that writes 0x7F to the low byte of a word. -/
def jobAt (a : Nat) : EffectJob :=
  { jobOf .writeField 0 8 0x7F 0 with record := { (jobOf .writeField 0 8 0x7F 0).record with addr := a } }

/-- A grant that a warm reset has withdrawn. -/
def withdrawn (a : IRAccess) (op : OrphanOp) : State := { up with mpa := { up.mpa with port := some (.orphan a op) } }

/-! ### Well-formedness -/

theorem test_wf_good_write : (Instr.masterRequest .scan (writeOf 0xFFFFF .byte 0xFF000000)).wf = true := by decide

theorem test_wf_good_read : (Instr.masterRequest .proc (readOf 0 .word)).wf = true := by decide

theorem test_wf_refuses_address_out_of_range :
    (Instr.masterRequest .proc (writeOf 0x100000 .byte 1)).wf = false := by decide

theorem test_wf_refuses_read_with_data :
    (Instr.masterRequest .proc { readOf 0 .word with data := 1 }).wf = false := by decide

theorem test_decode_spells_nothing : decodeTableWord 32 0x10 = none := rfl

/-! ### The queue, the reaction, memory -/

theorem test_step_front : ends .beat { up with pending := [.beat] } (fun t => t.pending == [.beat]) = true := by
  decide +kernel

theorem test_step_takes_front :
    (match step { up with pending := [.beat, .masterRead] } with
      | .next t => t.pending == [.masterRead] | .fault _ => false | .refused _ => false) = true := by
  decide +kernel

theorem test_step_idles : step up = .next up := rfl

/-- R148: the four cases of the table, and a held port. -/
theorem test_arbiter_cases :
    chooseGrant (some .fetchRead) false false true .scan = some (.ir .fetchRead)
    ∧ chooseGrant (some .fetchRead) true true false .scan = some (.ir .fetchRead)
    ∧ chooseGrant (some .fetchRead) false true true .scan = some (.master .scan)
    ∧ chooseGrant none true false false .proc = some (.master .proc)
    ∧ chooseGrant (some .fetchRead) true true true .scan = some (.master .proc)
    ∧ chooseGrant none true true false .proc = some (.master .scan)
    ∧ (State.reset.react.mpa.port = none) := by decide +kernel

theorem test_reaction_publishes : ({ up with fault := ⟨.scan, .read, 0x10⟩ } : State).react.cause.publication = .raising
    ∧ ({ up with fault := ⟨.scan, .read, 0x10⟩ } : State).react.mpa.port = some (.ir .faultWrite)
    ∧ up.react.cause.publication = .idle ∧ up.react.mpa.port = none := by decide +kernel

/-- R98, R13, R149, R156, R169, R173, R188, R191, R177 to R181: what each sub-client has ready. -/
theorem test_requests :
    up.irRequest = none
    ∧ (granting up (jobAt 0x1000)).effectRequest = some .effectRmw ∧ ({ up with effectUnit := .settling 0 1 } : State).effectRequest = none
    ∧ (syncing true).watchRequest = some .syncRead ∧ (completed false).watchRequest = none
    ∧ [.idle, .raising, .vectoring, .resetCause, .resetVector].map (fun p => (publishing p .causeWrite).causeRequest)
      = [none, some .faultWrite, some .vectorWrite, some .resetWrite, some .resetWrite]
    ∧ ({ publishing .raising .causeWrite with fault := up.cause.lastFault } : State).causeRequest = some .causeWrite
    ∧ (elementAt 7).noticeRequest = some .elementWrite
    ∧ [0, 1, 2].map (fun n =>
        ({ ringed with notice := { ringed.notice with indexWrites := n } } : State).noticeRequest)
      = [none, some .ringIndexWrite, some .ringIndexWrite]
    ∧ ({ ringed with notice := { ringed.notice with writer := .publishing } } : State).noticeRequest
      = some .produceWrite
    ∧ [.idle, .fetching [], .dispatched [] true, .reporting .ok 3 [], .reporting .ok 3 [7], .advancing].map
        (fun c => ({ up with cmd := c } : State).commandRequest)
      = [none, some .fetchRead, none, some .statusWrite, some .resultWrite, some .consumeWrite] := by decide +kernel

theorem test_memory_lanes :
    writeLanes [] 0x40 ⟨true, false, true, false⟩ 0x44332211 = [(0x40, 0x11), (0x42, 0x33)]
    ∧ readWord (writeLanes [] 0x40 ⟨true, false, true, false⟩ 0x44332211) 0x40 = 0x00330011
    ∧ Memory.wf (writeLanes [(0x41, 0x77)] 0x40 Lanes.all 0x44002211) := by decide +kernel

/-! ### Resets -/

theorem test_powerOnReset : ends (.powerOnReset true true) questing (fun t =>
    t.installed == 0x40000 && t.pageBase == 0x3F000 && t.quest 1 == Quest.cleared && t.mpa.hold) = true := by
  decide +kernel

/-- R160: the first and the last of the thirteen zero writes, and none after them. -/
theorem test_powerOnZeroWrite :
    ends .powerOnZeroWrite State.reset (fun t => t.mpa.zeroNext == 1 && t.mpa.hold && t.entriesStanding == 1) = true
    ∧ ends .powerOnZeroWrite { State.reset with mpa := { State.reset.mpa with zeroNext := 12 } }
        (fun t => t.mpa.zeroNext == 13 && !t.mpa.hold) = true
    ∧ exec .powerOnZeroWrite up = .next up := by
  refine ⟨by decide +kernel, by decide +kernel, rfl⟩

theorem test_zeroWrite_waits_for_a_place :
    4 ≤ ({ State.reset with
      stream := List.replicate 4
        { body := .write (wrote 0 0 .part), watchDue := true, fogDue := true, pageDue := true } } :
      State).entriesStanding := by decide +kernel

theorem test_warmReset : questing.gameReset = false ∧ ends (.warmReset true) questing (fun t =>
    (t.quest 1).state == .loaded && (t.watch 3).state == .syncing && (t.timer 2).count == 9
      && (t.timer 2).binder == none && t.cmd == .advancing && t.cause.publication == .resetCause) = true := by
  decide +kernel

theorem test_gameReset_level : ({ up with gameReset := true } : State).gameReset = true
    ∧ ends (.warmReset false) { up with gameReset := true } (fun t => !t.gameReset && t.cmd == .idle) = true := by
  decide +kernel

/-- R114, R56 (log 32): an effect's write stands in the stream, or its transfer is in progress: the watch unit takes the
reset behind it. -/
theorem test_warmReset_behind_the_write :
    ends (.warmReset true) (streamed (filled watching 3) (byteWrite .effect 0x0C 2)) (fun t => t.watchReset == some 1
      && (t.watch 3).state == .armed && t.queue.isEmpty && t.syncRead == none) = true
    ∧ ends .watchTakeWrite { streamed watching (byteWrite .effect 0x0C 2) with watchReset := some 1 } (fun t =>
      t.queue == [.watch 3 .effect 3] && (t.watch 3).shadow == 12 && (t.watch 3).state == .syncing
      && t.watchReset == none
      && t.syncRead == some { watch := 3, addr := 0x2000, completed := false, stale := false }) = true
    ∧ ends .watchTakeWrite { streamed watching (byteWrite .effect 0x0C 2) with watchReset := some 2 } (fun t =>
      t.watchReset == some 1 && (t.watch 3).state == .armed) = true
    ∧ ends (.warmReset true) { streamed watching (byteWrite .proc 0x0C 0) with watchReset := some 4 } (fun t =>
      t.watchReset == some 4) = true := by decide +kernel

/-- R162 (logs 19, 31): the grant in progress at the reset, an internal requester's of each kind. -/
theorem test_warmReset_grants :
    (∀ c ∈ [(0x1000, some 1), (0x20000, none)],
      ends (.warmReset true) (granting questing (jobAt c.1)) (fun t => t.watchReset == c.2 && t.effectUnit == .idle
        && t.mpa.port == some (.orphan .effectRmw (.effect (jobAt c.1)))) = true)
    ∧ ends (.warmReset true) (fetching [] 0) (fun t => t.mpa.port == some (.orphan .fetchRead .read)) = true
    ∧ ends (.warmReset true) (publishing .raising .faultWrite) (fun t => t.cause.lastFault == ⟨.scan, .write, 0x1F000⟩
      && t.mpa.port == some (.orphan .faultWrite (.write 0x30 0x1101F000))) = true
    ∧ ends (.warmReset true) (publishing .raising .causeWrite) (fun t =>
      t.mpa.port == some (.orphan .causeWrite (.write 0 0xC01))) = true
    ∧ ends (.warmReset true) (publishing .vectoring .vectorWrite) (fun t =>
      t.mpa.port == some (.orphan .vectorWrite (.write 8 11))) = true
    ∧ ends (.warmReset true) (publishing .resetVector .resetWrite) (fun t =>
      t.mpa.port == some (.orphan .resetWrite (.write 8 0))) = true
    ∧ ends (.warmReset true) (elementAt 6) (fun t => t.notice.writer == .idle
      && t.mpa.port == some (.orphan .elementWrite (.write 0x60F8 0x102))) = true
    ∧ ends (.warmReset true) (answering .resultWrite [9, 8]) (fun t => t.pendingRegion == none
      && t.mpa.port == some (.orphan .resultWrite (.write 0xFCC 9)) && !(t.region 15).enabled) = true
    ∧ ends (.warmReset true) (answering .statusWrite []) (fun t => (t.region 15).enabled
      && t.mpa.port == some (.orphan .statusWrite (.write 0xFC4 0x80000006))) = true
    ∧ ends (.warmReset true) { serving { up with consumeIndex := 31 } .consumeWrite with cmd := .advancing } (fun t =>
      t.mpa.port == some (.orphan .consumeWrite (.write 0x24 31))) = true
    ∧ ends (.warmReset true) (serving ringed .produceWrite) (fun t => t.mpa.port == some (.ir .produceWrite)) = true := by
  decide +kernel

/-- R26: the read in progress is to be discarded, one that stands is withdrawn, and the next one is asked for. -/
theorem test_warmReset_reads :
    ends (.warmReset true) (serving (syncing false) .syncRead) (fun t => t.mpa.port == some (.ir .syncRead)
      && t.syncRead == some { watch := 3, addr := 0x2000, completed := false, stale := true }) = true
    ∧ ends (.warmReset true) (completed false) (fun t => t.watchReset == some 1
      && t.syncRead == some { watch := 3, addr := 0x2000, completed := true, stale := true }) = true
    ∧ ends (.warmReset true) (syncing false) (fun t => t.watchReset == none
      && t.syncRead == some { watch := 3, addr := 0x2000, completed := false, stale := false }) = true
    ∧ ends (.warmReset true) up (fun t => t.syncRead == none) = true := by decide +kernel

/-- R162 (log 19): a withdrawn grant ends with the word it had, an effect's with its write in the stream. -/
theorem test_withdrawn_grants_end :
    ends .effectGrant (withdrawn .effectRmw (.effect (jobAt 0x1000))) (fun t => readWord t.mem 0x1000 == 0x7F
      && t.effectUnit == .idle && t.mpa.previousIR && t.stream.map StreamItem.body == [.write
        { addr := 0x1000, lanes := Lanes.all, data := 0x7F, writer := .effect, depth := 3, atPowerOn := false }]) = true
    ∧ ends .effectGrant (withdrawn .effectRmw (.effect (jobAt 0x20000))) (fun t => t.mem.isEmpty && t.stream.isEmpty
      && t.cause.arrivals == 0) = true
    ∧ ends .commandFetchRead (withdrawn .fetchRead .read) (fun t => t.mem.isEmpty && t.cmd == .idle) = true
    ∧ (∀ c ∈ [(Instr.faultWordWrite, IRAccess.faultWrite), (.consumeIndexWrite, .consumeWrite)],
        ends c.1 (withdrawn c.2 (.write 0x24 31)) (fun t => readWord t.mem 0x24 == 31) = true) := by decide +kernel

/-- R154: installed memory and the control page for the four settings of the straps. -/
theorem test_straps : ∀ c ∈ [(false, false, 0x20000, 0x0), (false, true, 0x20000, 0x1F000), (true, false, 0x40000, 0x0),
      (true, true, 0x40000, 0x3F000)],
    ({ up with msz256 := c.1, cpselHigh := c.2.1 } : State).installed = c.2.2.1
    ∧ ({ up with msz256 := c.1, cpselHigh := c.2.1 } : State).pageBase = c.2.2.2
    ∧ ({ up with msz256 := c.1, cpselHigh := c.2.1 } : State).inPage (c.2.2.2 + 0xFFF) = true
    ∧ ({ up with msz256 := c.1, cpselHigh := c.2.1 } : State).inPage (c.2.2.2 + 0x1000) = false := by decide +kernel

/-! ### Master accesses -/

theorem test_masterRequest :
    (up.port .scan).access = none
    ∧ ends (.masterRequest .scan (readOf 0x40 .word)) up (fun t => t.mpa.port == some (.master .scan)) = true
    ∧ ((granted up .proc (readOf 0x40 .word)).port .proc).access ≠ none := by decide +kernel

/-- Chapter 13's map: a fogged region from 0x1000, tile stride 32, first tile 0, fog word 0x20202020. -/
def fogged : State :=
  { up with
    mem := writeWord [] 0x1020 0x11223344
    regions := up.regions.set 2
      { enabled := true, base := 0x1000, limit := 0x2000, rights := ⟨true, true, true, false, true⟩, fog := true,
        stride := .b32, firstTile := 0, fogWord := 0x20202020 } }

def revealed : State := { fogged with reveal := fogged.reveal.set 0 0x00000002 }

theorem test_masterRead_fog :
    ends .masterRead (granted fogged .scan (readOf 0x1022 .halfword)) (fun t => t.scanPort.data == 0x20200000) = true
    ∧ ends .masterRead (granted revealed .scan (readOf 0x1020 .word)) (fun t => t.scanPort.data == 0x11223344) = true
    ∧ ends .masterRead (granted fogged .proc (readOf 0x1021 .byte)) (fun t => t.procPort.data == 0x00003300) = true := by
  decide +kernel

theorem test_witness_permitted_reads :
    (granted fogged .scan (readOf 0x1020 .word)).servesPermitted .scan (readOf 0x1020 .word)
    ∧ (granted fogged .scan (readOf 0x1020 .word)).nextFor .fog = none
    ∧ (granted (streamed fogged (wrote 0x10 1 .proc)) .scan (readOf 0x1020 .word)).nextFor .fog ≠ none
    ∧ (granted fogged .scan (readOf 0x1020 .word)).governing 0x1020 = some fogged.regions[2]
    ∧ (granted fogged .scan (readOf 0xFFC0 .word)).governing 0xFFC0 = none
    ∧ fogged.regions[2].firstTile + (0x1FE0 - fogged.regions[2].base) / fogged.regions[2].stride.bytes = 127
    ∧ (granted fogged .proc (readOf 0x1020 .word)).servesPermitted .proc (readOf 0x1020 .word) := by decide +kernel

/-- R153, R155: beyond installed memory, misaligned, on the control page, without the right. -/
theorem test_witness_refused :
    up.permits .proc (readOf 0x20000 .byte) = false ∧ up.permits .proc (readOf 0x1FFFF .byte) = true
    ∧ up.permits .proc (readOf 0x1001 .halfword) = false ∧ up.permits .proc (readOf 0x1002 .word) = false
    ∧ up.permits .scan (readOf 0xFFC .word) = false ∧ up.permits .scan (readOf 0x1000 .word) = true
    ∧ up.permits .proc (writeOf 0 .word 1) = true
    ∧ fogged.permits .scan (writeOf 0x1FFC .word 1) = false ∧ fogged.permits .scan (writeOf 0x2000 .word 1) = true := by
  decide +kernel

theorem test_refused_read :
    ends .masterRead (granted up .scan (readOf 0x30 .word)) (fun t => t.scanPort.data == 0
      && t.fault == ⟨.scan, .read, 0x30⟩ && t.cause.arrivals == causeAccess) = true
    ∧ ends .masterWrite (granted fogged .scan (writeOf 0x1020 .byte 0xFF)) (fun t => t.mem == fogged.mem
      && t.fault == ⟨.scan, .write, 0x1020⟩) = true := by decide +kernel

theorem test_masterWrite_lanes :
    ends .masterWrite (granted fogged .proc (writeOf 0x1022 .byte 0x99999999))
      (fun t => readWord t.mem 0x1020 == 0x11993344 && t.entriesStanding == 1) = true
    ∧ (granted fogged .proc (writeOf 0x1022 .byte 0x99999999)).servesPermitted .proc (writeOf 0x1022 .byte 0x99999999)
    ∧ (granted fogged .proc (writeOf 0x1022 .byte 0x99999999)).interception .proc 0x1020 = .passes
    ∧ (granted up .scan (writeOf 0x1020 .word 1)).servesPermitted .scan (writeOf 0x1020 .word 1) := by decide +kernel

/-- R164: each word of the control page's table, for the processor and for the scanner. -/
theorem test_interception :
    ([0x000, 0x004, 0x008, 0x00C, 0x010, 0x01C, 0x020, 0x024, 0x028, 0x02C, 0x030, 0x034, 0x7FC, 0x800, 0xFFC, 0x1000].map
      (up.interception .proc))
    = [.clears, .passes, .dropped, .passes, .passes, .passes, .passes, .dropped, .dropped, .passes, .dropped, .passes,
      .passes, .passes, .passes, .passes]
    ∧ up.interception .scan 0x000 = .passes ∧ up.interception .scan 0x008 = .passes
    ∧ (granted up .proc (writeOf 0x2F .byte 1)).servesPermitted .proc (writeOf 0x2F .byte 1)
    ∧ wordAddrOf (writeOf 0x2F .byte 1) = 0x02C ∧ wordAddrOf (writeOf 0x34 .word 1) = 0x034
    ∧ (granted up .scan (writeOf 0x1000 .word 1)).servesPermitted .scan (writeOf 0x1000 .word 1) := by decide +kernel

/-- R170: a byte write of 0x03 to lane 0 of the cause word clears causes 1 and 2 and keeps cause 11. -/
theorem test_causeWordClear :
    ends .causeWordClear
      (granted { up with cause := { up.cause with working := 0x403, arrivals := 0x2 } } .proc (writeOf 0 .byte 0xFF03))
      (fun t => t.cause.working == 0x400 && t.cause.arrivals == 0 && readWord t.mem 0 == 0x400) = true
    ∧ (granted up .proc (writeOf 0 .byte 3)).servesPermitted .proc (writeOf 0 .byte 3) := by decide +kernel

/-- R165: each of the four part-owned words, in each size. -/
theorem test_droppedControlWrite :
    ends .droppedControlWrite (granted up .proc (writeOf 0x32 .halfword 0xFFFFFFFF))
      (fun t => t.procPort == { access := none, data := 0x55 } && t.mpa == { up.mpa with lastMaster := .proc }
        && t.mem == up.mem && t.stream.isEmpty && t.cause == up.cause && t.fault == up.fault) = true
    ∧ (granted up .proc (writeOf 0x09 .byte 1)).servesPermitted .proc (writeOf 0x09 .byte 1)
    ∧ (granted up .proc (writeOf 0x24 .word 1)).servesPermitted .proc (writeOf 0x24 .word 1)
    ∧ (granted up .proc (writeOf 0x2A .halfword 1)).servesPermitted .proc (writeOf 0x2A .halfword 1) := by
  decide +kernel

/-- R98: the turn word, the reveal words at both ends, their neighbours, and the end of memory. -/
theorem test_effect_rights :
    up.permitsEffect 0x00C = true ∧ up.permitsEffect 0x010 = true ∧ up.permitsEffect 0x01C = true
    ∧ up.permitsEffect 0x008 = false ∧ up.permitsEffect 0x020 = false ∧ up.permitsEffect 0xFFC = false
    ∧ up.permitsEffect 0x1000 = true ∧ up.permitsEffect 0x1FFFC = true ∧ up.permitsEffect 0x20000 = false
    ∧ fogged.permitsEffect 0x1000 = true := by decide +kernel

/-- A second region over the end of the first, without the right to write. -/
def overlaid : State :=
  let r : Region :=
    { enabled := true, base := 0x1F00, limit := 0x3000, rights := ⟨true, false, true, false, false⟩, fog := false,
      stride := .b16, firstTile := 0, fogWord := 0 }
  { fogged with regions := fogged.regions.set 9 r }

theorem test_witness_rights :
    up.inPage (wordAddrOf (readOf 0xFFF .byte)) = true ∧ up.inPage (wordAddrOf (readOf 0x1000 .byte)) = false
    ∧ fogged.governing 0x1FFC = some fogged.regions[2] ∧ fogged.governing 0x2000 = none
    ∧ overlaid.permits .proc (writeOf 0x1F00 .word 1) = false ∧ overlaid.permits .proc (writeOf 0x1EFC .word 1) = true := by
  decide +kernel

/-! ### Taking the snoop stream -/

theorem test_watchTakeWrite :
    ends .watchTakeWrite (streamed watching (byteWrite .proc 0x0C 0)) (fun t => (t.watch 3).shadow == 12
      && (t.watch 3).truth && t.queue == [.watch 3 .proc 0]) = true
    ∧ ends .watchTakeWrite (streamed watching (byteWrite .scan 0x0C 0)) (fun t => (t.watch 3).shadow == 12
      && (t.watch 3).truth && t.queue.isEmpty) = true := by decide +kernel

/-- R10: an effect's write of depth 6 fires at depth 7, one of depth 7 is bounded; R58: the 16th and the 17th entry. -/
theorem test_watchTakeWrite_offers :
    ends .watchTakeWrite (streamed (filled watching 15) (byteWrite .effect 0x0C 6)) (fun t => t.queue.length == 16
      && t.queue.getLast? == some (.watch 3 .effect 7)) = true
    ∧ ends .watchTakeWrite (streamed (filled watching 16) (byteWrite .proc 0x0C 0)) (fun t => (t.watch 3).missed
      && t.cause.arrivals == causeTriggerLost && t.queue.length == 16) = true
    ∧ ends .watchTakeWrite (streamed watching (byteWrite .effect 0x0C 7)) (fun t => (t.watch 3).missed
      && t.cause.arrivals == causeCascade && t.queue.isEmpty) = true
    ∧ ends .watchTakeWrite (streamed (watching.updWatch 3 fun x => { x with notify := true }) (byteWrite .proc 0x0C 0))
      (fun t => t.notice.hold.map (fun n => (n.kind, n.number, n.offer, n.old, n.new))
        == [(.watchFired, 3, some .queued, 5, 12)]) = true := by decide +kernel

/-- R3's table, EQUAL to CHANGED in the order of the codes. -/
def truthsOf (width : Nat) (shadow operand : Word) : List Bool :=
  [.equal, .unequal, .below, .atLeast, .above, .atMost, .less, .notLess, .greater, .notGreater, .changed].map
    (fun c => truthOf c width shadow operand)

/-- R3: 3 beside 3; 0x80 beside 0x7F at width 8, where it is -128, and at width 9, where it is 128; the two values of
width 1, 0 and -1; the ends of the range at width 32. -/
theorem test_comparisons :
    truthsOf 8 3 3 = [true, false, false, true, false, true, false, true, false, true, false]
    ∧ truthsOf 8 0x80 0x7F = [false, true, false, true, true, false, true, false, false, true, false]
    ∧ truthsOf 9 0x80 0x7F = [false, true, false, true, true, false, false, true, true, false, false]
    ∧ truthsOf 1 1 0 = [false, true, false, true, true, false, true, false, false, true, false]
    ∧ truthsOf 32 0x7FFFFFFF 0x80000000
      = [false, true, true, false, false, true, false, true, true, false, false] := by decide +kernel

/-- R6: a halfword write of lanes 2 and 3 over a field from bit 12 to bit 19 replaces its upper four bits. -/
theorem test_shadow_across_lanes :
    touchesField ⟨false, false, true, true⟩ 12 8 = true ∧ touchesField ⟨true, false, false, true⟩ 12 8 = false
    ∧ shadowAfter 12 8 ⟨false, false, true, true⟩ 0x123A0000 0xBC = 0xAC := by decide +kernel

/-- The hypotheses of the statement of one firing, for a queued, a lost and a bounded offer. -/
theorem test_witness_firing : ∀ c ∈ [(15, byteWrite .effect 0x0C 6), (16, byteWrite .proc 0x0C 0),
      (0, byteWrite .effect 0x0C 7)],
    (streamed (filled watching c.1) c.2).nextFor .watch = some (.write c.2)
    ∧ ((streamed (filled watching c.1) c.2).watch 3).sees c.2 = true
    ∧ ((streamed (filled watching c.1) c.2).watch 3).firesAt c.2 = true
    ∧ (∀ v : Fin 64, v ≠ 3 → ((streamed (filled watching c.1) c.2).watch v).sees c.2 = false) := by decide +kernel

/-- R9, R11: two watches that one write fires: both queued, the second lost, both bounded. -/
theorem test_several_firings :
    ends .watchTakeWrite (streamed (filled twins 14) (byteWrite .proc 0x0C 0)) (fun t =>
      t.queue.drop 14 == [.watch 3 .proc 0, .watch 7 .proc 0] && t.cause.arrivals == 0) = true
    ∧ ends .watchTakeWrite (streamed (filled twins 15) (byteWrite .proc 0x0C 0)) (fun t =>
      t.queue.drop 15 == [.watch 3 .proc 0] && !(t.watch 3).missed && (t.watch 7).missed
      && t.cause.arrivals == causeTriggerLost) = true
    ∧ ends .watchTakeWrite (streamed twins (byteWrite .effect 0x0C 7)) (fun t => t.queue.isEmpty && (t.watch 3).missed
      && (t.watch 7).missed && t.cause.arrivals == causeCascade) = true
    ∧ (∀ w : Fin 64, w ∈ [(3 : Fin 64), 7] ↔ ((twins.watch w).sees (byteWrite .proc 0x0C 0) = true
        ∧ (twins.watch w).firesAt (byteWrite .proc 0x0C 0) = true)) := by decide +kernel

/-- A write of another lane, and one of another word, are not seen. -/
theorem test_witness_observe :
    touchesField ⟨true, false, true, true⟩ 8 8 = false ∧ touchesField ⟨false, true, false, false⟩ 8 8 = true
    ∧ touchesField ⟨true, false, false, false⟩ 7 2 = true ∧ touchesField ⟨false, true, false, false⟩ 7 2 = true
    ∧ sampleWatch.sees { byteWrite .proc 1 0 with addr := 0x2004 } = false
    ∧ ((watching.watch 3).firesAt (byteWrite .proc 0x0A 0)) = false := by decide +kernel

theorem test_revealCopyUpdate :
    ends .revealCopyUpdate (streamed up { wrote 0x1C 0xAABBCCDD .proc with lanes := ⟨false, false, true, false⟩ })
      (fun t => t.reveal[3] == 0xBB0000) = true
    ∧ (streamed up (wrote 0x10 1 .proc)).nextFor .fog = some (.write (wrote 0x10 1 .proc))
    ∧ (streamed up (wrote 0x1C 1 .effect)).nextFor .fog = some (.write (wrote 0x1C 1 .effect))
    ∧ up.pageBase + 0x010 + 4 * 3 = 0x1C := by decide +kernel

theorem test_enableWordTaken :
    ends .enableWordTaken (streamed up (wrote 4 0x80000401 .proc)) (fun t => t.page.enable == 0x80000401
      && t.cause.handed == 0x401 && t.cause.publication == .raising) = true
    ∧ ends .enableWordTaken (streamed up (wrote 4 0x8000 .proc)) (fun t => t.page.enable == 0x8000
      && t.cause.handed == 0 && t.cause.publication == .idle) = true
    ∧ (streamed up (wrote 4 1 .proc)).nextFor .page = some (.write (wrote 4 1 .proc)) := by decide +kernel

/-- Two timers on the turn, one of them stopped, and one on the beat. -/
def timed : State :=
  let t0 : Timer := { sampleTimer with clock := .turn, count := 1, binder := none }
  let t1 : Timer := { sampleTimer with clock := .turn, state := .stopped, binder := none }
  let t7 : Timer := { sampleTimer with count := 1, binder := none, route := true, mode := .periodic }
  { up with timers := ((up.timers.set 0 t0).set 1 t1).set 7 t7 }

theorem test_turnWordTaken :
    ends .turnWordTaken (streamed timed (wrote 12 0x102 .proc)) (fun t => (t.timer 0).count == 0
      && (t.timer 1).count == 4 && (t.timer 7).count == 1 && t.page.turn == 0x102) = true
    ∧ ends .turnWordTaken (streamed timed (wrote 12 0x100 .proc)) (fun t => t.timers == timed.timers
      && t.page.turn == 0x100) = true
    ∧ (streamed timed (wrote 12 2 .proc)).nextFor .page = some (.write (wrote 12 2 .proc)) ∧ SettledTimers timed := by
  decide +kernel

/-- R175: produce values 31 and 32, one that equals the consume index, and the zero write of power-on. -/
theorem test_commandProduceIndex :
    ends .commandProduceIndex (streamed up (wrote 0x20 31 .proc)) (fun t => t.page.produce == 31
      && t.cmd == .fetching []) = true
    ∧ ends .commandProduceIndex (streamed up (wrote 0x20 32 .proc)) (fun t => t.page.produce == 0
      && t.page.produceImage == 32 && t.cause.arrivals == causeRingFault && t.cmd == .idle) = true
    ∧ ends .commandProduceIndex (streamed { up with consumeIndex := 5 } (wrote 0x20 5 .proc)) (fun t =>
      t.page.produce == 5 && t.cmd == .idle) = true
    ∧ ends .commandProduceIndex (streamed { up with cmd := .advancing } (wrote 0x20 5 .proc)) (fun t =>
      t.page.produce == 5 && t.cmd == .advancing) = true
    ∧ ends .commandProduceIndex (streamed { up with consumeIndex := 5 } { wrote 0x20 0 .part with atPowerOn := true })
      (fun t => t.page.produce == 0 && t.cmd == .idle) = true := by decide +kernel

/-- R190: consume values 7 and 8 in a ring of 8, and a ring that is not set. -/
theorem test_noticeConsumeIndex :
    ends .noticeConsumeIndex (streamed ringed (wrote 0x2C 7 .proc)) (fun t => t.page.consume == 7) = true
    ∧ ends .noticeConsumeIndex (streamed ringed (wrote 0x2C 8 .proc)) (fun t => t.page.consume == 0
      && t.page.consumeImage == 8 && t.cause.arrivals == causeRingFault) = true
    ∧ ends .noticeConsumeIndex (streamed up (wrote 0x2C 0 .proc)) (fun t => t.cause.arrivals == causeRingFault) = true
    ∧ ends .noticeConsumeIndex (streamed ringed { wrote 0x2C 0 .part with atPowerOn := true })
      (fun t => t.cause.arrivals == 0) = true := by decide +kernel

theorem test_witness_indexes :
    (streamed ringed (wrote 0x20 31 .proc)).nextFor .page = some (.write (wrote 0x20 31 .proc))
    ∧ (streamed ringed (wrote 0x2C 7 .proc)).nextFor .page = some (.write (wrote 0x2C 7 .proc)) := by decide +kernel

/-! ### Timers -/

theorem test_beat :
    ends .beat timed (fun t => (t.timer 7).count == 0 && (t.timer 0).count == 1 && t.queue.isEmpty) = true
    ∧ ends .beat { timed with gameReset := true } (fun t => t.timers == timed.timers) = true := by
  decide +kernel

/-- Expiries under way in T0 and T7. -/
def expiring : State :=
  let t0 : Timer := { sampleTimer with count := 0, binder := some 1 }
  let t7 : Timer := { sampleTimer with count := 0, binder := none, route := true, mode := .periodic }
  { timed with timers := (timed.timers.set 0 t0).set 7 t7 }

/-- Only T7's expiry is under way. -/
def expiring7 : State := { expiring with timers := expiring.timers.set 0 Timer.cleared }

theorem test_timerExpiry :
    ends .timerExpiry expiring (fun t => (t.timer 0).state == .stopped && (t.timer 0).count == 0 && t.beatOut
      && t.queue == [.expiry 0 (some 1)] && t.cause.arrivals == causeTimer 0 && (t.timer 7).expiryDue) = true
    ∧ ends .timerExpiry { expiring7 with queue := [.expiry 7 (some 4)] }
      (fun t => (t.timer 7).count == 9 && (t.timer 7).state == .running && !t.beatOut
        && t.queue == [.expiry 7 none]) = true := by decide +kernel

/-- R119: both expiries under way, the lower first, and then none. -/
theorem test_settleTimers : expiring.settleTimers = (expiring.expire 0).expire 7 ∧ SettledTimers expiring.settleTimers := by
  decide +kernel

theorem test_witness_expiry :
    (expiring.timer 0).state = .running ∧ (expiring.timer 0).count = 0
    ∧ (∀ j : Fin 8, j < 0 → (expiring.timer j).expiryDue = false)
    ∧ (∀ j : Fin 8, j < 7 → (expiring7.timer j).expiryDue = false)
    ∧ (expiring.timer 0).binder ≠ none ∧ (expiring.timer 7).route = true
    ∧ expiring.queue.countP (Trigger.isExpiryOf 0) = 0
    ∧ ({ expiring with queue := [.expiry 7 none] } : State).queue.countP (Trigger.isExpiryOf 7) ≠ 0
    ∧ ends .timerExpiry timed (fun t => t.timers == timed.timers && t.queue.isEmpty) = true
    ∧ (given expiring (block 0x33 12 [7])).cmd = .dispatched (block 0x33 12 [7]) false
    ∧ [(Instr.setTimer, 0x30), (.presetTimer, 0x31), (.runTimer, 0x32), (.stopTimer, 0x33),
        (.readTimer, 0x34)].contains (Instr.stopTimer, codeOf (block 0x33 12 [7])) = true := by decide +kernel

/-- What a timer command on `words` needs of the state. -/
abbrev handsTimer (s : State) (code : Nat) (words : List Word) : Prop :=
  (given s words).hands code words ∧ SettledTimers (given s words)

/-- R126: the number 7 and 8, the codes 1 and 2, a reload of 65535 and of 65536, and a bound timer. -/
theorem test_setTimer :
    ends .setTimer (given up (block 0x30 16 [0x11107, 0xFFFF])) (fun t => t.timer 7 ==
      { reload := 0xFFFF, count := 0xFFFF, state := .stopped, clock := .turn, mode := .periodic, route := true,
        binder := none } && t.cmd == .reporting .ok 3 []) = true
    ∧ reports .setTimer (given up (block 0x30 16 [8, 1])) .outOfRange [] = true
    ∧ reports .setTimer (given up (block 0x30 16 [0x207, 1])) .badField [] = true
    ∧ reports .setTimer (given up (block 0x30 16 [0x2007, 1])) .badField [] = true
    ∧ reports .setTimer (given up (block 0x30 16 [7, 0x10000])) .badField [] = true
    ∧ reports .setTimer (given questing (block 0x30 16 [2, 1])) .inUse [] = true
    ∧ ends .setTimer (given timed (block 0x30 16 [0x1000, 5])) (fun t => (t.timer 0).count == 1
      && (t.timer 0).reload == 5) = true := by decide +kernel

theorem test_witness_setTimer :
    handsTimer up 0x30 (block 0x30 16 [0x11107, 0xFFFF]) ∧ handsTimer questing 0x30 (block 0x30 16 [2, 1])
    ∧ bits (wordAt (block 0x30 16 [0x11107, 0xFFFF]) 2) 0 8 = 7
    ∧ bits (wordAt (block 0x30 16 [0x11107, 0xFFFF]) 2) 8 2 = Clock.turn.code
    ∧ bits (wordAt (block 0x30 16 [0x11107, 0xFFFF]) 2) 12 2 = TimerMode.periodic.code
    ∧ (wordAt (block 0x30 16 [0x11107, 0xFFFF]) 3).toNat ≤ 65535
    ∧ 65535 < (wordAt (block 0x30 16 [7, 0x10000]) 3).toNat ∧ 7 < bits (wordAt (block 0x30 16 [8, 1]) 2) 0 8 := by
  decide +kernel

theorem test_presetTimer :
    ends .presetTimer (given timed (block 0x31 12 [7])) (fun t => (t.timer 7).count == 9
      && (t.timer 7).state == .running && t.cmd == .reporting .ok 3 []) = true
    ∧ reports .presetTimer (given timed (block 0x31 12 [8])) .outOfRange [] = true
    ∧ reports .presetTimer (given timed (block 0x31 12 [6])) .notDefined [] = true
    ∧ reports .presetTimer (given questing (block 0x31 12 [2])) .inUse [] = true := by decide +kernel

theorem test_runTimer :
    ends .runTimer (given timed (block 0x32 12 [1])) (fun t => (t.timer 1).count == 4
      && (t.timer 1).state == .running && t.cmd == .reporting .ok 3 []) = true
    ∧ ends .runTimer (given { up with timers := up.timers.set 7 { Timer.cleared with reload := 9 } } (block 0x32 12 [7]))
      (fun t => (t.timer 7).count == 9 && (t.timer 7).state == .running) = true
    ∧ reports .runTimer (given timed (block 0x32 12 [6])) .notDefined [] = true := by decide +kernel

theorem test_stopTimer :
    ends .stopTimer (given timed (block 0x33 12 [7])) (fun t => (t.timer 7).count == 1
      && (t.timer 7).state == .stopped && t.cmd == .reporting .ok 3 []) = true
    ∧ reports .stopTimer (given questing (block 0x33 12 [2])) .inUse [] = true := by decide +kernel

/-- For the three commands: bound, unset, RUNNING and STOPPED timers, at numbers 1, 2, 6, 7 and 8. -/
theorem test_witness_timerCommands :
    (∀ c ∈ [0x31, 0x32, 0x33], ∀ n ∈ [1, 2, 6, 7, 8],
      handsTimer timed c (block c 12 [n]) ∧ handsTimer questing c (block c 12 [n])
      ∧ bits (wordAt (block c 12 [n]) 2) 0 8 = n)
    ∧ (questing.timer 2).binder ≠ none ∧ (timed.timer 6).binder = none ∧ (timed.timer 6).reload = 0
    ∧ (timed.timer 7).binder = none ∧ (timed.timer 7).reload ≠ 0 ∧ (timed.timer 7).state = .running
    ∧ (timed.timer 1).binder = none ∧ (timed.timer 1).reload ≠ 0 ∧ (timed.timer 1).state = .stopped := by
  decide +kernel

theorem test_readTimer :
    reports .readTimer (given { questing with beatOut := true } (block 0x34 12 [2])) .ok [0x00040009, 0x101] = true
    ∧ reports .readTimer (given { timed with beatOut := true } (block 0x34 12 [0])) .ok [0x00010009, 0xFF13] = true
    ∧ reports .readTimer (given timed (block 0x34 12 [8])) .outOfRange [] = true
    ∧ handsTimer timed 0x34 (block 0x34 12 [7]) := by decide +kernel

/-! ### Watches -/

theorem test_syncReadComplete :
    ends .syncReadComplete (serving (syncing false) .syncRead) (fun t => t.stream.length == 1
      && t.nextFor .watch == some (.syncMark 0x00000C00) && (t.watch 3).state == .syncing) = true
    ∧ ends .syncReadComplete (completed false) (fun t => (t.watch 3).state == .armed && (t.watch 3).shadow == 12
      && (t.watch 3).truth && t.queue == [.watch 3 .part 0] && t.cmd == .reporting .ok 3 [] && t.stream.isEmpty
      && t.syncRead == none) = true
    ∧ ends .syncReadComplete (completed true) (fun t => (t.watch 3).state == .syncing && t.stream.isEmpty
      && t.syncRead == some { watch := 3, addr := 0x2000, completed := false, stale := false }) = true := by
  decide +kernel

/-- R18, R20: the command that waits for watch 3's read; one that is not taken, or is another's, does not wait. -/
theorem test_armCommandWaits : ∀ r ∈ [(0x10, true, true), (0x11, true, true), (0x13, true, true), (0x12, true, false),
      (0x10, false, false)],
    ({ up with cmd := .dispatched (block r.1 24 [3]) r.2.1 } : State).armCommandWaits 3 = r.2.2
    ∧ ({ up with cmd := .dispatched (block r.1 24 [3]) r.2.1 } : State).armCommandWaits 4 = false := by decide +kernel

theorem test_witness_syncRead :
    (serving (syncing false) .syncRead).mpa.port = some (.ir .syncRead)
    ∧ (serving (syncing false) .syncRead).syncRead ≠ none
    ∧ (completed false).mpa.port ≠ some (.ir .syncRead)
    ∧ (completed false).nextFor .watch = some (.syncMark 0x00000C00)
    ∧ ((completed false).watch 3).state = .syncing ∧ (completed false).armCommandWaits 3 = true
    ∧ ({ completed false with cmd := .idle } : State).armCommandWaits 3 = false
    ∧ (completed true).nextFor .watch = some (.syncMark 0x00000C00)
    ∧ (∀ w : Fin 64, (watching.watch w).state ≠ .syncing)
    ∧ (∀ v : Fin 64, v < 3 → ((syncing false).watch v).state ≠ .syncing)
    ∧ ({ syncing false with syncRead := none } : State).syncRead = none := by decide +kernel

/-- R17, R18: watch 63 on the top bit of the turn word, and the first refusal of each check. -/
theorem test_armWatch :
    ends .armWatch (given up (block 0x10 24 [0x0034013F, 0xC, 0x011F, 3])) (fun t => t.watch 63 ==
      { Watch.cleared with
        state := .syncing, addr := 0xC, lowBit := 31, width := 1, condition := .unequal, operand := 1, filter := ⟨false, false, true⟩, notify := true, fireOnArm := true }
      && t.syncRead == some { watch := 63, addr := 0xC, completed := false, stale := false }
      && t.mpa.port == some (.ir .syncRead)) = true
    ∧ reports .armWatch (given up (block 0x10 24 [0x00010040, 0x1000, 0x0800, 0])) .outOfRange [] = true
    ∧ (∀ d ∈ [[0x00010B00, 0x1000, 0x0800, 0], [0x00010000, 0x1000, 0x0000, 0], [0x00010000, 0x1000, 0x2100, 0],
          [0x00010000, 0x1000, 0x0020, 0], [0x00010000, 0x1000, 0x021F, 0], [0x00000000, 0x1000, 0x0800, 0],
          [0x00010000, 0x1002, 0x0800, 0], [0x00010000, 0x20000, 0x0800, 0], [0x00010000, 0x8, 0x0800, 0],
          [0x00010000, 0x20, 0x0800, 0]],
        reports .armWatch (given up (block 0x10 24 d)) .badField [] = true)
    ∧ reports .armWatch (given watching (block 0x10 24 [0x00010A03, 0x1FFFC, 0x2000, 0])) .busy [] = true := by
  decide +kernel

theorem test_witness_armWatch :
    (given watching (block 0x10 24 [0x00010A03, 0x1FFFC, 0x2000, 0])).hands 0x10
      (block 0x10 24 [0x00010A03, 0x1FFFC, 0x2000, 0])
    ∧ bits (wordAt (block 0x10 24 [0x00010A3F, 0x1FFFC, 0x2000, 0]) 2) 0 8 = 63
    ∧ bits (wordAt (block 0x10 24 [0x00010A3F, 0x1FFFC, 0x2000, 0]) 2) 8 4 = Condition.changed.code
    ∧ bits (wordAt (block 0x10 24 [0x00010A3F, 0x1FFFC, 0x2000, 0]) 4) 8 8 = 32
    ∧ bits (wordAt (block 0x10 24 [0x00010A3F, 0x1FFFC, 0x2000, 0]) 2) 16 3 ≠ 0
    ∧ 0x1FFFC % 4 = 0 ∧ 0x1FFFC < up.installed ∧ up.inPage 0x1FFFC = false
    ∧ up.isRevealWord 0x10 = true ∧ up.isRevealWord 0x1C = true ∧ up.isRevealWord 0x20 = false
    ∧ (watching.watch 3).state ≠ .free ∧ (up.watch 63).state = .free := by decide +kernel

/-- R19: bit 4095 of a string at 0x1000 is bit 31 of the word at 0x11FC. -/
theorem test_armBitWatch :
    ends .armBitWatch (given up (block 0x11 24 [0x0001003F, 0x1000, 4095, 1])) (fun t => (t.watch 63).addr == 0x11FC
      && (t.watch 63).lowBit == 31 && (t.watch 63).width == 1 && (t.watch 63).operand == 1
      && (t.watch 63).state == .syncing) = true
    ∧ (∀ d ∈ [[0x00010000, 0x1000, 4096, 0], [0x00010000, 0x1002, 0, 0], [0x00010200, 0x1000, 0, 0],
          [0x00010000, 0x1000, 0, 2], [0x00000000, 0x1000, 0, 1], [0x00010000, 0x1FFFC, 32, 0],
          [0x00010000, 0x10, 128, 0]],
        reports .armBitWatch (given up (block 0x11 24 d)) .badField [] = true)
    ∧ reports .armBitWatch (given up (block 0x11 24 [0x00010040, 0x1000, 0, 0])) .outOfRange [] = true
    ∧ reports .armBitWatch (given watching (block 0x11 24 [0x00010003, 0x1000, 0, 0])) .busy [] = true := by
  decide +kernel

theorem test_witness_armBitWatch :
    (given up (block 0x11 24 [0x0001003F, 0x1000, 4095, 1])).hands 0x11 (block 0x11 24 [0x0001003F, 0x1000, 4095, 1])
    ∧ bits (wordAt (block 0x11 24 [0x0001003F, 0x1000, 4095, 1]) 4) 0 16 = 4095
    ∧ bits (wordAt (block 0x11 24 [0x0001003F, 0x1000, 4095, 1]) 2) 0 8 = 63
    ∧ bits (wordAt (block 0x11 24 [0x0001003F, 0x1000, 4095, 1]) 2) 8 4 = Condition.equal.code
    ∧ bits (wordAt (block 0x11 24 [0x00010A3F, 0x1000, 4095, 1]) 2) 8 4 = Condition.changed.code
    ∧ 0x1000 % 4 = 0 ∧ (wordAt (block 0x11 24 [0x0001003F, 0x1000, 4095, 1]) 5).toNat ≤ 1
    ∧ 0x1000 + 4 * (4095 / 32) < up.installed ∧ up.inPage (0x1000 + 4 * (4095 / 32)) = false := by decide +kernel

theorem test_resyncWatch :
    ends .resyncWatch (given watching (block 0x13 12 [3])) (fun t => (t.watch 3).state == .syncing
      && (t.watch 3).operand == 10 && t.syncRead == some { watch := 3, addr := 0x2000, completed := false, stale := false })
      = true
    ∧ reports .resyncWatch (given watching (block 0x13 12 [63])) .notDefined [] = true
    ∧ reports .resyncWatch (given watching (block 0x13 12 [64])) .outOfRange [] = true
    ∧ reports .resyncWatch (given (syncing false) (block 0x13 12 [3])) .busy [] = true := by decide +kernel

theorem test_readWatch :
    ends .readWatch (given (watching.updWatch 3 fun x => { x with missed := true }) (block 0x14 12 [3])) (fun t =>
      !(t.watch 3).missed && t.cmd == .reporting .ok 3 [0x02050402, 0x2000, 0x808, 10, 5]) = true
    ∧ reports .readWatch (given up (block 0x14 12 [63])) .ok [0, 0, 0, 0, 0] = true
    ∧ reports .readWatch (given up (block 0x14 12 [64])) .outOfRange [] = true := by decide +kernel

theorem test_witness_resyncRead : ∀ c ∈ [0x13, 0x14], ∀ n ∈ [3, 63, 64],
    (given watching (block c 12 [n])).hands c (block c 12 [n]) ∧ bits (wordAt (block c 12 [n]) 2) 0 8 = n
    ∧ (watching.watch 63).state = .free ∧ (watching.watch 3).state = .armed
    ∧ ((syncing false).watch 3).state = .syncing := by decide +kernel

theorem test_disarmWatch :
    ends .disarmWatch (given { watching with queue := [.watch 3 .proc 0, .watch 4 .proc 1, .expiry 2 none] }
      (block 0x12 12 [3])) (fun t => t.watch 3 == Watch.cleared && t.queue == [.watch 4 .proc 1, .expiry 2 none]
        && t.cmd == .reporting .ok 3 []) = true
    ∧ ends .disarmWatch (given (completed false) (block 0x12 12 [3])) (fun t => t.syncRead ==
      some { watch := 3, addr := 0x2000, completed := true, stale := true }) = true
    ∧ reports .disarmWatch (given questing (block 0x12 12 [3])) .inUse [] = true
    ∧ reports .disarmWatch (given questing (block 0x12 12 [63])) .notDefined [] = true
    ∧ reports .disarmWatch (given questing (block 0x12 12 [64])) .outOfRange [] = true := by decide +kernel

theorem test_witness_disarm :
    (given questing (block 0x12 12 [3])).handsEngine 0x12 (block 0x12 12 [3])
    ∧ (given watching (block 0x12 12 [3])).handsEngine 0x12 (block 0x12 12 [3])
    ∧ bits (wordAt (block 0x12 12 [3]) 2) 0 8 = 3 ∧ bits (wordAt (block 0x12 12 [63]) 2) 0 8 = 63
    ∧ 63 < bits (wordAt (block 0x12 12 [64]) 2) 0 8 ∧ (watching.watch 3).state ≠ .free
    ∧ (∀ q : Fin 32, (watching.quest q).state.running = false)
    ∧ (questing.quest 1).state.running = true ∧ 0 < (questing.quest 1).stepCount
    ∧ (questing.questStep 1 0).trigger = some 3 := by decide +kernel

/-! ### The pools and the quest table -/

/-- One step record: trigger W6, no guard, T2 with NOTE, effects 90 to 93, no call, notify. -/
def stepWords : List Nat := [0x0202FF06, 0x0002045A, 0xFF]

theorem test_defineSteps :
    ends .defineSteps (given up (block 0x20 24 ([0x0001007F] ++ stepWords))) (fun t => t.stepRec 127 ==
      { trigger := some 6, guard := none, gated := false, timer := some 2, action := .note, firstEffect := 90,
        effectCount := 4, call := none, notify := true } && t.cmd == .reporting .ok 3 []) = true
    ∧ reports .defineSteps (given up (block 0x20 36 ([0x0002007F] ++ stepWords ++ stepWords))) .outOfRange [] = true
    ∧ reports .defineSteps (given questing (block 0x20 24 ([0x00010004] ++ stepWords))) .inUse [] = true
    ∧ ends .defineSteps (given questing (block 0x20 24 ([0x00010003] ++ stepWords))) (fun t =>
      t.cmd == .reporting .ok 3 []) = true
    ∧ (∀ r ∈ [[0x0202FFFF, 0x00020061, 0xFF], [0x02020006, 0x00030000, 0xFF], [0x020200FF, 0x00020000, 0xFF],
          [0x02020006, 0x00020500, 0xFF]],
        ends .defineSteps (given up (block 0x20 24 ([0x00010000] ++ r))) (fun t => t.cmd != .reporting .ok 3 [])
          = true) := by decide +kernel

/-- A bit effect, and a WRITE_IF on bits 4 to 19 with reference W63. -/
theorem test_defineEffects :
    ends .defineEffects (given up (block 0x21 36 [0x0002005E, 0x000FFF02, 0x1000, 9, 0x3F100405, 0x2000, 7])) (fun t =>
      t.effectRec 94 == { kind := .flipBit, addr := 0x11FC, lowBit := 31, width := 1, value := 9, ref := none }
      && t.effectRec 95 == { kind := .writeIf, addr := 0x2000, lowBit := 4, width := 16, value := 7, ref := some 63 }
      && t.cmd == .reporting .ok 3 []) = true
    ∧ reports .defineEffects (given up (block 0x21 36 [0x0002005F, 0, 0x1000, 0, 0, 0x1000, 0])) .outOfRange [] = true
    ∧ reports .defineEffects (given up (block 0x21 24 [0x00010000, 0x000FFF07, 0x1000, 9])) .badField [] = true
    ∧ reports .defineEffects (given up (block 0x21 24 [0x00010000, 0x00100005, 0x2000, 9])) .ok [] = true := by
  decide +kernel

/-- Q1 running over a step with effects 20 to 23. -/
def effecting : State :=
  let st : StepRec := { sampleStep (some 3) none with firstEffect := 20, effectCount := 4 }
  { questing with steps := questing.steps.set 4 st }

theorem test_defineEffects_inUse :
    reports .defineEffects (given effecting (block 0x21 24 [0x00010017, 0, 0x1000, 0])) .inUse [] = true
    ∧ reports .defineEffects (given effecting (block 0x21 24 [0x00010018, 0, 0x1000, 0])) .ok [] = true := by
  decide +kernel

theorem test_witness_define :
    (given up (block 0x20 24 ([0x0001007F] ++ stepWords))).handsEngine 0x20 (block 0x20 24 ([0x0001007F] ++ stepWords))
    ∧ (given effecting (block 0x21 24 [0x00010017, 0, 0x1000, 0])).handsEngine 0x21
        (block 0x21 24 [0x00010017, 0, 0x1000, 0])
    ∧ bits (wordAt (block 0x20 24 ([0x0001007F] ++ stepWords)) 2) 0 8
        + bits (wordAt (block 0x20 24 ([0x0001007F] ++ stepWords)) 2) 16 8 = 128
    ∧ (parseStep 0x0202FF06 0x0002045A 0xFF).isOk = true
    ∧ (parseEffect 0x000FFF02 0x1000 9).isOk = true
    ∧ (∀ q : Fin 32, (up.quest q).state.running = false)
    ∧ (questing.quest 1).firstStep ≤ 4 ∧ 4 < (questing.quest 1).firstStep + (questing.quest 1).stepCount
    ∧ (effecting.questStep 1 0).firstEffect ≤ 0x17
    ∧ 0x17 < (effecting.questStep 1 0).firstEffect + (effecting.questStep 1 0).effectCount := by decide +kernel

/-- The hypotheses of the record statements, at the ends of their ranges. -/
theorem test_witness_records :
    watchRefOf (bits 0x0208FF3F 0 8) = some (some 63) ∧ watchRefOf (bits 0x0208FF3F 8 8) = some none
    ∧ timerRefOf (bits 0x020FFF3F 16 4) = some none ∧ actionOfCode (bits 0x0002015F 16 2) = some .note
    ∧ questRefOf (bits 0x1F 0 8) = some (some 31) ∧ bits 0x0002015F 0 8 + bits 0x0002015F 8 8 ≤ 96
    ∧ kindOfCode (bits 0x000FFF02 0 8) = some .flipBit ∧ bits 0x000FFF02 8 16 ≤ 4095
    ∧ kindOfCode (bits 0x3F011F05 0 8) = some .writeIf ∧ bits 0x3F011F05 8 8 + bits 0x3F011F05 16 8 ≤ 32
    ∧ watchRefOf (bits 0x3F011F05 24 8) = some (some 63) ∧ kindOfCode (bits 0x00200004 0 8) = some .addField
    ∧ 1 ≤ bits 0x00200004 16 8 ∧ bits 0x00200004 8 8 + bits 0x00200004 16 8 ≤ 32 := by decide +kernel

/-- How a step record and an effect record are refused. -/
def stepRefusal (r : Word × Word × Word) : Option Status :=
  match parseStep r.1 r.2.1 r.2.2 with
  | .error st => some st
  | .ok _ => none

def effectRefusal (r : Word × Word) : Option Status :=
  match parseEffect r.1 r.2 0 with
  | .error st => some st
  | .ok _ => none

/-- R42 check 2: each check of a step record at its boundary. -/
theorem test_parseStep_refuses :
    [(0x000F4003, 0, 0xFF), (0x000FFFFE, 0, 0xFF), (0x000F03FF, 0, 0xFF), (0x0008FF03, 0x30000, 0xFF),
      (0x000FFF03, 0x30060, 0xFF), (0x000FFF03, 0x0560, 0xFF), (0x000FFF03, 0x055F, 0xFF), (0x000FFF03, 0x025F, 0xFF),
      (0x000FFF03, 0x015F, 0x20), (0x000FFF03, 0x015F, 0x1F)].map stepRefusal
    = [some .outOfRange, some .outOfRange, some .badField, some .outOfRange, some .badField, some .outOfRange,
      some .badField, some .outOfRange, some .outOfRange, none] := by decide +kernel

/-- R111 check 2: each check of an effect record at its boundary; the reference of a bit kind is not examined. -/
theorem test_parseEffect_refuses :
    [(0x00000007, 0x1000), (0x00000000, 0x1002), (0x00100000, 0x1000), (0x00000003, 0x1000), (0x00210003, 0x1000),
      (0x00012003, 0x1000), (0x00020803, 0x1001), (0x00021F04, 0x1000), (0x40080005, 0x1000), (0xFE080006, 0x1000),
      (0xFF080005, 0x1000), (0x400FFF00, 0x1000), (0xFE080004, 0x1000)].map effectRefusal
    = [some .badField, some .badField, some .badField, some .badField, some .badField, some .badField, some .badField,
      some .badField, some .outOfRange, some .outOfRange, some .badField, none, none] := by decide +kernel

theorem test_loadQuest :
    ends .loadQuest (given up (block 0x22 16 [0xE110701F, 0x707])) (fun t => t.quest 31 ==
      { Quest.cleared with
        state := .loaded, firstStep := 0x70, stepCount := 16, order := .loose, owner := .any, tag := 0x707 }) = true
    ∧ reports .loadQuest (given up (block 0x22 16 [0x50017F00, 0])) .ok [] = true
    ∧ reports .loadQuest (given up (block 0x22 16 [0x00017F20, 0])) .outOfRange [] = true
    ∧ reports .loadQuest (given up (block 0x22 16 [0x00018000, 0])) .outOfRange [] = true
    ∧ reports .loadQuest (given up (block 0x22 16 [0x00027F00, 0])) .outOfRange [] = true
    ∧ (∀ d ∈ [0x00007F00, 0x00110000, 0x02010000, 0x60010000, 0xF0010000],
        reports .loadQuest (given up (block 0x22 16 [d, 0])) .badField [] = true)
    ∧ reports .loadQuest (given questing (block 0x22 16 [0x00010001, 0])) .busy [] = true := by decide +kernel

/-- Q1 in another state. -/
def standing (st : QuestState) : State := questing.updQuest 1 fun c => { c with state := st }

theorem test_unloadQuest :
    (∀ st ∈ [QuestState.loaded, .done, .failed],
      ends .unloadQuest (given (standing st) (block 0x27 12 [1])) (fun t => t.quest 1 == Quest.cleared) = true)
    ∧ (∀ st ∈ [QuestState.active, .held, .suspended],
      reports .unloadQuest (given (standing st) (block 0x27 12 [1])) .busy [] = true)
    ∧ reports .unloadQuest (given questing (block 0x27 12 [31])) .notDefined [] = true
    ∧ reports .unloadQuest (given questing (block 0x27 12 [32])) .outOfRange [] = true := by decide +kernel

theorem test_readQuest :
    reports .readQuest (given questing (block 0x28 12 [1])) .ok [0x072E0002, 0xFFFF0204, 7, 4] = true
    ∧ reports .readQuest (given questing (block 0x28 12 [32])) .outOfRange [] = true
    ∧ reports .readQuest (given up (block 0x28 12 [31])) .ok [0x07F00000, 0xFFFF0000, 0, 0] = true := by decide +kernel

theorem test_witness_questCommands :
    (∀ c ∈ [0x22, 0x23, 0x24, 0x25, 0x26, 0x27, 0x28], ∀ n ∈ [1, 31, 32],
      (given questing (block c 12 [n])).handsEngine c (block c 12 [n]) ∧ bits (wordAt (block c 12 [n]) 2) 0 8 = n)
    ∧ (questing.quest 31).state = .vacant ∧ (questing.quest 1).state = .active
    ∧ orderOfCode (bits (wordAt (block 0x22 16 [0xE110701F, 0]) 2) 24 2) = some .loose
    ∧ ownerOfCode (bits (wordAt (block 0x22 16 [0xE110701F, 0]) 2) 28 4) = some .any
    ∧ bits (wordAt (block 0x22 16 [0xE110701F, 0]) 2) 16 5 = 16
    ∧ bits (wordAt (block 0x22 16 [0xE110701F, 0]) 2) 8 8 + 16 = 128 := by decide +kernel

/-! ### The quest engine -/

/-- Q1 LOADED over two steps, the first on W3 with T2, its timer free and set. -/
def loaded (trigger : Option (Fin 64)) : State :=
  let t2 : Timer := { sampleTimer with state := .stopped, binder := none }
  let w6 : Watch := { sampleWatch with addr := 0x2010 }
  let q1 : Quest := { sampleQuest with state := .loaded, bound := none }
  { questing with
    quests := questing.quests.set 1 q1
    steps := questing.steps.set 4 (sampleStep trigger (some 2))
    watches := questing.watches.set 6 w6
    timers := questing.timers.set 2 t2 }

theorem test_startQuest :
    ends .startQuest (given (loaded (some 3)) (block 0x23 12 [1])) (fun t => (t.quest 1).state == .active
      && (t.quest 1).bound == some 2 && (t.timer 2).count == 9 && (t.timer 2).state == .running
      && (t.timer 2).binder == some 1 && t.work == none && t.cmd == .reporting .ok 3 []) = true
    ∧ ends .startQuest (given (loaded none) (block 0x23 12 [1])) (fun t => (t.quest 1).state == .active
      && (t.quest 1).current == 1 && (t.quest 1).bound == none && (t.timer 2).state == .stopped && t.work == none
      && t.cmd == .reporting .ok 3 []) = true
    ∧ reports .startQuest (given questing (block 0x23 12 [1])) .busy [] = true
    ∧ reports .startQuest (given questing (block 0x23 12 [31])) .notDefined [] = true
    ∧ reports .startQuest (given { loaded (some 3) with watches := up.watches } (block 0x23 12 [1])) .notDefined [] = true
    ∧ reports .startQuest (given questing (block 0x23 12 [32])) .outOfRange [] = true := by decide +kernel

theorem test_witness_start :
    (given (loaded (some 3)) (block 0x23 12 [1])).handsEngine 0x23 (block 0x23 12 [1])
    ∧ ((loaded (some 3)).quest 1).state ≠ .vacant ∧ ((loaded (some 3)).quest 1).state.running = false
    ∧ (loaded (some 3)).validateQuest 1 = none ∧ (loaded none).validateQuest 1 = none
    ∧ ((loaded (some 3)).stepRec ((loaded (some 3)).quest 1).firstStep).trigger ≠ none
    ∧ ((loaded none).stepRec ((loaded none).quest 1).firstStep).trigger = none
    ∧ ({ loaded (some 3) with watches := up.watches } : State).validateQuest 1 = some .notDefined := by decide +kernel

theorem test_holdQuest :
    ends .holdQuest (given questing (block 0x24 12 [1])) (fun t => (t.quest 1).state == .held
      && (t.quest 1).bound == some 2 && (t.timer 2).state == .running && t.cmd == .reporting .ok 3 []) = true
    ∧ reports .holdQuest (given (standing .held) (block 0x24 12 [1])) .busy [] = true
    ∧ reports .holdQuest (given questing (block 0x24 12 [31])) .notDefined [] = true := by decide +kernel

/-- Q1 HELD with its late flag set, its step's timeout action FAIL or NOTE. -/
def late (action : TimeoutAction) : State :=
  let st : StepRec := { sampleStep (some 3) (some 2) with action := action }
  { questing.updQuest 1 (fun c => { c with state := .held, late := true }) with steps := questing.steps.set 4 st }

theorem test_resumeQuest :
    ends .resumeQuest (given (standing .held) (block 0x25 12 [1])) (fun t => (t.quest 1).state == .active
      && t.cmd == .reporting .ok 3 []) = true
    ∧ ends .resumeQuest (given (late .fail) (block 0x25 12 [1])) (fun t => (t.quest 1).state == .failed
      && (t.quest 1).reason == some .timeout && !(t.quest 1).late && (t.timer 2).state == .stopped
      && t.notice.hold.map Notice.kind == [.questFailed] && t.cmd == .reporting .ok 3 []) = true
    ∧ ends .resumeQuest (given (late .note) (block 0x25 12 [1])) (fun t => (t.quest 1).state == .active
      && (t.quest 1).bound == none && t.notice.hold.map Notice.kind == [.stepLate]) = true
    ∧ reports .resumeQuest (given questing (block 0x25 12 [1])) .busy [] = true := by decide +kernel

/-- Q1 SUSPENDED at a call to Q2. -/
def chained : State :=
  let child : Quest := { sampleQuest with state := .active, firstStep := 8, bound := none, parent := some 1, depth := 1 }
  { questing.updQuest 1 (fun c => { c with state := .suspended, bound := none, child := some 2 }) with
    quests :=
      (questing.quests.set 1 { sampleQuest with state := .suspended, bound := none, child := some 2 }).set 2 child
    timers := up.timers }

theorem test_abandonQuest :
    ends .abandonQuest (given questing (block 0x26 12 [1])) (fun t => (t.quest 1).state == .failed
      && (t.quest 1).reason == some .abandoned && (t.timer 2).binder == none && t.cmd == .reporting .ok 3 []) = true
    ∧ ends .abandonQuest (given chained (block 0x26 12 [1])) (fun t => (t.quest 1).reason == some .abandoned
      && (t.quest 2).reason == some .abandoned && (t.quest 2).parent == none && (t.quest 1).child == none) = true
    ∧ ends .abandonQuest (given chained (block 0x26 12 [2])) (fun t => (t.quest 1).reason == some .childFailed
      && (t.quest 2).reason == some .abandoned && t.notice.hold.map Notice.number == [2, 1]) = true
    ∧ reports .abandonQuest (given (standing .done) (block 0x26 12 [1])) .busy [] = true
    ∧ reports .abandonQuest (given questing (block 0x26 12 [31])) .notDefined [] = true := by decide +kernel

/-- A chain of four: Q8 at the bottom, then Q2, Q1 and Q4. -/
def chainOfFour : State :=
  let c : Quest := { sampleQuest with state := .suspended, bound := none }
  { questing with
    quests :=
      (((questing.quests.set 4 { c with child := some 1 }).set 1 { c with parent := some 4, child := some 2 }).set 2
        { c with parent := some 1, child := some 8 }).set 8 { c with state := .active, parent := some 2 }
    timers := up.timers }

/-- R89: the quests up to the one named fail ABANDONED, those above it CHILD_FAILED. -/
theorem test_abandon_long_chain :
    (∀ c ∈ [(8, [.abandoned, .childFailed, .childFailed, .childFailed]),
        (1, [.abandoned, .abandoned, .abandoned, .childFailed]), (4, List.replicate 4 .abandoned)],
      ends .abandonQuest (given chainOfFour (block 0x26 12 [c.1])) (fun t =>
        [8, 2, 1, 4].map (fun q : Fin 32 => (t.quest q).reason) == c.2.map some
        && [8, 2, 1, 4].all (fun q : Fin 32 => (t.quest q).parent == none && (t.quest q).child == none)
        && t.notice.hold.map Notice.number == [8, 2, 1, 4]) = true)
    ∧ (chainOfFour.quest 8).child = none ∧ (chainOfFour.quest 8).parent = some 2 ∧ (chainOfFour.quest 2).child = some 8
    ∧ (chainOfFour.quest 2).parent = some 1 ∧ (chainOfFour.quest 1).child = some 2
    ∧ (chainOfFour.quest 1).parent = some 4 ∧ (chainOfFour.quest 4).child = some 1
    ∧ (chainOfFour.quest 4).parent = none := by decide +kernel

theorem test_witness_hold_resume_abandon :
    (standing .held).work = none ∧ ((standing .held).quest 1).late = false ∧ ((standing .held).quest 1).state = .held
    ∧ ((late .fail).quest 1).late = true ∧ ((late .fail).currentStep 1).action = .fail
    ∧ ((late .fail).quest 1).parent = none
    ∧ (questing.quest 1).parent = none ∧ (questing.quest 1).child = none ∧ (questing.quest 1).state.running = true
    ∧ (chained.quest 1).child = some 2 ∧ (chained.quest 2).parent = some 1 ∧ (chained.quest 1).parent = none
    ∧ (chained.quest 2).child = none ∧ (chained.quest 1).state.running = true
    ∧ (chained.quest 2).state.running = true ∧ ((standing .done).quest 1).state.running = false := by decide +kernel

/-- A trigger at the head of the queue. -/
def offered (s : State) (e : Trigger) : State := { s with queue := [e] }

/-- Q1's current step with other fields. -/
def stepped (f : StepRec → StepRec) : State :=
  { questing with steps := questing.steps.set 4 (f (sampleStep (some 3) (some 2))) }

theorem test_watchTriggerTake :
    ends .watchTriggerTake (offered questing (.watch 3 .proc 0)) (fun t => (t.quest 1).current == 1
      && (t.quest 1).bound == none && (t.timer 2).state == .stopped && t.queue.isEmpty && t.work == none) = true
    ∧ ends .watchTriggerTake (offered questing (.watch 6 .proc 0)) (fun t => (t.quest 1).state == .failed
      && (t.quest 1).reason == some .outOfOrder) = true
    ∧ ends .watchTriggerTake (offered (stepped fun x => { x with guard := some 6 }) (.watch 3 .proc 0)) (fun t =>
      t.quest 1 == questing.quest 1 && t.queue.isEmpty) = true
    ∧ ends .watchTriggerTake (offered (stepped fun x => { x with effectCount := 1 }) (.watch 3 .proc 2)) (fun t =>
      t.effectUnit == .grantWait { record := EffectRec.zeroed, depth := 2, captured := 0 }
      && t.mpa.port == some (.ir .effectRmw)) = true
    ∧ ends .watchTriggerTake (offered questing (.watch 9 .proc 0)) (fun t => t.quest 1 == questing.quest 1
      && t.queue.isEmpty) = true := by decide +kernel

/-- Q1 and Q4 ACTIVE on the same two steps, Q4 at the second. -/
def pair : State := questing.updQuest 4 (fun _ => { sampleQuest with bound := none, current := 1 })

/-- R67, R71: the ACTIVE quests are visited in ascending number, each by its own step. -/
theorem test_two_active_quests :
    ends .watchTriggerTake (offered pair (.watch 3 .proc 0)) (fun t => (t.quest 1).current == 1
      && (t.quest 4).current == 1 && t.work == none) = true
    ∧ ends .watchTriggerTake (offered pair (.watch 6 .proc 0)) (fun t => (t.quest 1).state == .failed
      && (t.quest 4).state == .done && t.notice.hold.map Notice.number == [1, 4]) = true
    ∧ (∀ q : Fin 32, q ∈ [(1 : Fin 32), 4] ↔ (pair.quest q).state = .active)
    ∧ ends .startQuest { given (loaded (some 3)) (block 0x23 12 [1]) with work := some (working up (.awaiting 4 0 [])) }
      (fun t => t.cmd == .dispatched (block 0x23 12 [1]) false) = true := by decide +kernel

/-- A gated step of player 5's quest, on player 4's turn and on player 5's. -/
def gated (turn : Word) : State :=
  { (stepped fun x => { x with gated := true }).updQuest 1 (fun c => { c with owner := .player 5 }) with
    page := { up.page with turn := turn } }

theorem test_watchTriggerTake_gate :
    ends .watchTriggerTake (offered (gated 0x104) (.watch 3 .proc 0)) (fun t => (t.quest 1).current == 0
      && t.queue.isEmpty) = true
    ∧ ends .watchTriggerTake (offered (gated 0x105) (.watch 3 .proc 0)) (fun t => (t.quest 1).current == 1) = true := by
  decide +kernel

theorem test_witness_watchTrigger :
    (∀ p : Fin 32, (questing.quest p).state = .active ↔ p = 1)
    ∧ (∀ q : Fin 32, (up.quest q).state ≠ .active)
    ∧ (offered questing (.watch 3 .proc 0)).work = none
    ∧ (offered questing (.watch 3 .proc 0)).engineCommandWaits = false
    ∧ (given questing (block 0x24 12 [1])).engineCommandWaits = true ∧ (given questing (block 0x24 12 [1])).work = none
    ∧ (questing.stepRec (4 + 0)).trigger = some 3 ∧ (questing.stepRec (4 + 0)).gated = false
    ∧ (questing.stepRec (4 + 0)).effectCount = 0 ∧ (questing.stepRec (4 + 0)).call = none
    ∧ (questing.stepRec (4 + 1)).trigger = some 6 ∧ (questing.stepRec (4 + 1)).timer = none
    ∧ (questing.quest 1).order = .strict ∧ (questing.quest 1).current + 1 < (questing.quest 1).stepCount
    ∧ (questing.watch 6).truth = false ∧ ((stepped fun x => { x with guard := some 6 }).stepRec 4).guard = some 6
    ∧ ((gated 0x104).quest 1).owner = .player 5 ∧ (gated 0x104).page.turn.toNat % 16 = 4 := by decide +kernel

theorem test_expiryTriggerTake :
    ends .expiryTriggerTake (offered questing (.expiry 2 (some 1))) (fun t => (t.quest 1).state == .active
      && (t.quest 1).bound == none && (t.timer 2).state == .stopped && t.notice.hold.map Notice.kind == [.stepLate]
      && t.work == none) = true
    ∧ ends .expiryTriggerTake (offered (standing .held) (.expiry 2 (some 1))) (fun t => (t.quest 1).late
      && (t.quest 1).bound == some 2) = true
    ∧ ends .expiryTriggerTake (offered questing (.expiry 7 (some 1))) (fun t => t.quest 1 == questing.quest 1
      && t.queue.isEmpty) = true
    ∧ ends .expiryTriggerTake (offered questing (.expiry 2 none)) (fun t => t.quest 1 == questing.quest 1
      && t.queue.isEmpty) = true
    ∧ ends .expiryTriggerTake (offered (stepped fun x => { x with action := .fail }) (.expiry 2 (some 1))) (fun t =>
      (t.quest 1).reason == some .timeout && t.notice.hold.map Notice.timer == [some 2]) = true := by decide +kernel

theorem test_witness_expiryTrigger :
    (questing.quest 1).bound = some 2 ∧ (questing.quest 1).bound ≠ some 7
    ∧ ((standing .held).quest 1).bound = some 2 ∧ ((standing .held).quest 1).state = .held
    ∧ (questing.currentStep 1).action = .note
    ∧ (offered questing (.expiry 2 (some 1))).engineCommandWaits = false := by decide +kernel

/-- Q1 with one effect of a kind at record 20. -/
def withEffect (k : EffectKind) (ref : Option (Fin 64)) : State :=
  let r : EffectRec := { kind := k, addr := 0x1000, lowBit := 4, width := 8, value := 5, ref := ref }
  { (stepped fun x => { x with firstEffect := 20, effectCount := 1 }) with effects := up.effects.set 20 r }

/-- R97: a WRITE_IF on a FALSE truth and a COPY_SHADOW of a FREE watch are SKIPPED; the others wait for their grant. -/
theorem test_engine_effects :
    ((withEffect .writeIf (some 3)).engineStep (working up (.effects 1 0 []))).work.map WorkItem.task
      = some (.effects 1 1 [{ status := .skipped, old := 0, new := 0 }])
    ∧ ((withEffect .copyShadow (some 7)).engineStep (working up (.effects 1 0 []))).work.map WorkItem.task
      = some (.effects 1 1 [{ status := .skipped, old := 0, new := 0 }])
    ∧ ((withEffect .copyShadow (some 3)).engineStep (working up (.effects 1 0 []))).effectUnit
      = .grantWait { record := (withEffect .copyShadow (some 3)).effectRec 20, depth := 0, captured := 5 }
    ∧ ((withEffect .addField none).engineStep (working up (.effects 1 0 []))).work.map WorkItem.task
      = some (.awaiting 1 0 []) := by decide +kernel

/-- R46 check 4: a FREE guard, an unset timer, a call of itself, and an effect's FREE reference; the first step with a
failure gives the status. -/
theorem test_validation :
    (loaded (some 3)).validateQuest 1 = none
    ∧ (stepped fun x => { x with guard := some 9 }).validateQuest 1 = some .notDefined
    ∧ (stepped fun x => { x with timer := some 5 }).validateQuest 1 = some .notDefined
    ∧ (stepped fun x => { x with trigger := some 3, call := some 1 }).validateQuest 1 = some .badField
    ∧ (withEffect .copyShadow (some 9)).validateQuest 1 = some .notDefined
    ∧ (stepped fun x => { x with timer := some 5, call := some 1 }).validateQuest 1 = some .notDefined := by
  decide +kernel

/-- Q1's step calls Q2, which may be called, is VACANT, or would be too deep. -/
def calling (depth : Nat) (state : QuestState) : State :=
  let callee : Quest := { sampleQuest with state := state, firstStep := 8, stepCount := 1, bound := none }
  let called := (sampleStep (some 3) none)
  { (stepped fun x => { x with call := some 2, timer := none }) with
    quests := (questing.quests.set 1 { sampleQuest with bound := none, depth := depth }).set 2 callee
    steps := (questing.steps.set 4 { sampleStep (some 3) none with call := some 2 }).set 8 called }

theorem test_engine_calls :
    (((calling 2 .loaded).engineStep (working up (.passed 1 []))).quest 1).state = .suspended
    ∧ (((calling 2 .loaded).engineStep (working up (.passed 1 []))).quest 2).depth = 3
    ∧ ((calling 3 .loaded).engineStep (working up (.passed 1 []))).work.map WorkItem.task
      = some (.fail 1 .depth none none)
    ∧ ((calling 2 .vacant).engineStep (working up (.passed 1 []))).work.map WorkItem.task
      = some (.fail 1 .callBusy none none)
    ∧ (calling 2 .loaded).validateQuest 2 = none ∧ ((calling 2 .loaded).currentStep 1).call = some 2
    ∧ ((calling 2 .loaded).currentStep 1).notify = false := by decide +kernel

/-- R35, R85, R87: the last step of a quest, alone and in a chain; a failure in a chain. -/
theorem test_engine_ends :
    ((chained.updQuest 2 fun c => { c with current := 1 }).engineStep (working up (.advance 2 .passed))).work.map
      WorkItem.task = some (.advance 1 .passed)
    ∧ (((chained.updQuest 2 fun c => { c with current := 1 }).engineStep (working up (.advance 2 .passed))).quest 1).state
      = .active
    ∧ (chained.engineStep (working up (.fail 2 .timeout (some 2) none))).work.map WorkItem.task
      = some (.fail 1 .childFailed none none)
    ∧ ((questing.updQuest 1 fun c => { c with current := 1 }).engineStep (working up (.advance 1 .late))).notice.hold.map
      Notice.ended = [some .late]
    ∧ ((stepped fun x => { x with action := .skip, notify := true }).engineStep (working up (.timeout 1))).notice.hold.map
      Notice.kind = [.stepSkipped]
    ∧ (questing.engineStep (working up (.pass 1))).work.map WorkItem.task = some (.effects 1 0 []) := by decide +kernel

theorem test_witness_keepTheRest :
    ends .holdQuest (given questing (block 0x24 12 [1])) (fun t => t.mem == questing.mem && t.stream.isEmpty
      && t.watches == questing.watches && t.fault == questing.fault) = true := by decide +kernel

/-- R31: Q1 takes T2 from itself again, and Q4 takes it from Q1; T5 has no reload. -/
theorem test_bind_release :
    SettledTimers questing ∧ (questing.timer 2).reload ≠ 0 ∧ (questing.timer 5).reload = 0
    ∧ ((questing.bindTimer 4 2).quest 1).bound = none ∧ ((questing.bindTimer 4 2).timer 2).binder = some 4
    ∧ ((questing.bindTimer 4 2).timer 2).count = 9
    ∧ ((questing.release 1).timer 2).count = 4 ∧ ((questing.release 1).timer 2).state = .stopped
    ∧ (questing.quest 1).bound = some 2 ∧ (questing.quest 4).bound = none := by decide +kernel

/-! ### Effects -/

/-- R103: the eight rows of its table. -/
theorem test_addField_table : ∀ r ∈ ([(4, 13, 5, 15), (4, 3, -7, 0), (8, 254, 3, 255), (8, 200, -2147483648, 0),
      (1, 1, 1, 1), (16, 100, -1, 99), (32, 4294967280, 32, 4294967295), (32, 5, 2147483647, 2147483652)] :
      List (Nat × Nat × Int × Nat)),
    ((jobOf .addField 0 r.1 r.2.2.1 0).newValue (BitVec.ofNat 32 r.2.1)).toNat = r.2.2.2 := by decide +kernel

/-- R101, R102, R104: the bit kinds, a truncated value, and a truncated shadow; the rest of the word is kept. -/
theorem test_effect_values :
    (jobOf .setBit 31 1 0 0).newWord 0x00000001 = 0x80000001
    ∧ (jobOf .clearBit 0 1 0 0).newWord 0xFFFFFFFF = 0xFFFFFFFE
    ∧ (jobOf .flipBit 22 1 0 0).newWord 0x00020000 = 0x00420000
    ∧ (jobOf .writeField 28 4 0x1F 0).newWord 0x01234567 = 0xF1234567
    ∧ (jobOf .writeIf 0 32 (-1) 0).newWord 0x01234567 = 0xFFFFFFFF
    ∧ (jobOf .copyShadow 8 8 0 0x1A5).newWord 0 = 0xA500 ∧ (jobOf .copyShadow 8 16 0 0x1A5).newWord 0 = 0x1A500
    ∧ (jobOf .copyShadow 0 32 0 0xFFFFFFFF).newValue 0 = 0xFFFFFFFF := by decide +kernel

theorem test_effectGrant :
    ends .effectGrant (granting questing (jobOf .writeField 0 8 0x7F 0)) (fun t => readWord t.mem 0x1000 == 0x7F
      && t.effectUnit == .settling 0 0x7F && t.stream.map StreamItem.body == [.write
        { addr := 0x1000, lanes := Lanes.all, data := 0x7F, writer := .effect, depth := 3, atPowerOn := false }]) = true
    ∧ ends .effectGrant (granting { questing with cpselHigh := true } { jobOf .setBit 0 1 0 0 with
        record := { EffectRec.zeroed with addr := 0x1F000 } }) (fun t => t.mem.isEmpty && t.stream.isEmpty
          && t.fault == ⟨.effect, .write, 0x1F000⟩ && t.cause.arrivals == causeAccess && t.effectUnit == .idle) = true := by
  decide +kernel

/-- SETTLING, with the effect's write still standing, and once it is taken. -/
def settling (e : List StreamItem) : State :=
  { questing with effectUnit := .settling 4 5, stream := e, work := some (working questing (.awaiting 1 0 [])) }

def standingEffect : StreamItem :=
  { body := .write (wrote 0x1000 5 .effect), watchDue := true, fogDue := false, pageDue := false }

theorem test_effectSettled :
    ends .effectSettled (settling [standingEffect]) (fun t => t.effectUnit == .settling 4 5) = true
    ∧ ends .effectSettled (settling []) (fun t => t.effectUnit == .idle && t.work == none
      && (t.quest 1).current == 1) = true
    ∧ SettledTimers (settling [])
    ∧ (granting questing (jobOf .writeField 0 8 0x7F 0)).permitsEffect 0x1000 = true
    ∧ (granting { questing with cpselHigh := true } (jobOf .setBit 0 1 0 0)).permitsEffect 0x1F000 = false
    ∧ (settling []).work.map WorkItem.task = some (.awaiting 1 0 []) := by decide +kernel

/-! ### Regions -/

/-- R157: entry 15 over the whole of memory above the page, and a fogged entry whose last tile is 127 and 128. -/
theorem test_setRegion :
    ends .setRegion (given up (block 0x40 24 [0x00001F0F, 0x1000, 0x20000, 0])) (fun t => t.pendingRegion ==
      some (15, { Region.cleared with enabled := true, base := 0x1000, limit := 0x20000,
                                      rights := ⟨true, true, true, true, true⟩ })
      && t.regions == up.regions && t.cmd == .reporting .ok 3 []) = true
    ∧ ends .setRegion (given up (block 0x40 24 [0x7F110700, 0x4000, 0x4020, 0xABCD])) (fun t =>
      t.cmd == .reporting .badField 3 []) = true
    ∧ ends .setRegion (given up (block 0x40 24 [0x7E110700, 0x4000, 0x4040, 0xABCD])) (fun t => t.pendingRegion ==
      some (0, ⟨true, 0x4000, 0x4040, ⟨true, true, true, false, false⟩, true, .b32, 126, 0xABCD⟩)) = true
    ∧ (∀ d ∈ [[0x00002000, 0x1000, 0x2000, 0], [0x0, 0x1020, 0x2000, 0], [0x0, 0x1000, 0x2020, 0],
          [0x0, 0x2000, 0x2000, 0], [0x0, 0x1000, 0x20040, 0], [0x0, 0xFC0, 0x2000, 0],
          [0x7F110000, 0x4000, 0x4040, 0], [0x80110000, 0x4000, 0x4040, 0], [0x00410000, 0x4000, 0x4040, 0],
          [0x00310000, 0x4000, 0x4040, 0]],
        reports .setRegion (given up (block 0x40 24 d)) .badField [] = true)
    ∧ reports .setRegion (given up (block 0x40 24 [0x10, 0x1000, 0x2000, 0])) .outOfRange [] = true := by
  decide +kernel

theorem test_clearRegion :
    ends .clearRegion (given fogged (block 0x41 12 [15])) (fun t => t.pendingRegion == some (15, Region.cleared)
      && t.regions == fogged.regions && t.cmd == .reporting .ok 3 []) = true
    ∧ reports .clearRegion (given fogged (block 0x41 12 [16])) .outOfRange [] = true := by decide +kernel

theorem test_witness_regions :
    (given up (block 0x40 24 [0x7E11070F, 0x4000, 0x4040, 0])).hands 0x40 (block 0x40 24 [0x7E11070F, 0x4000, 0x4040, 0])
    ∧ (given up (block 0x41 12 [15])).hands 0x41 (block 0x41 12 [15])
    ∧ bits 0x7E11070F 0 8 = 15 ∧ bits 0x7E11070F 8 8 ≤ 31 ∧ bit 0x7E11070F 16 = true
    ∧ strideOfCode (bits 0x7E11070F 20 3) = some .b32 ∧ bits 0x7E11070F 24 8 + (0x4040 - 0x4000) / 32 ≤ 128
    ∧ 4 ≤ bits 0x00410000 20 3 ∧ 0x4000 % 64 = 0 ∧ 0x4040 ≤ up.installed ∧ up.pageBase + 0x1000 ≤ 0x4000 := by
  decide +kernel

/-! ### Causes and the interrupt -/

theorem test_faultWordWrite :
    ends .faultWordWrite (publishing .raising .faultWrite) (fun t => readWord t.mem 0x30 == 0x1101F000
      && t.cause.lastFault == ⟨.scan, .write, 0x1F000⟩ && t.mpa.port == some (.ir .causeWrite)) = true := by
  decide +kernel

theorem test_causeWordPublish :
    ends .causeWordPublish (publishing .raising .causeWrite) (fun t => readWord t.mem 0 == 0xC01
      && t.cause.working == 0xC01 && t.cause.arrivals == 0 && t.mpa.port == some (.ir .vectorWrite)) = true := by
  decide +kernel

theorem test_vectorWordPublish :
    ends .vectorWordPublish (publishing .vectoring .vectorWrite) (fun t => readWord t.mem 8 == 11
      && t.cause.pendingSet == 0x401 && t.cause.enableSet == 0xC00 && t.cause.vector == 11 && t.cause.int) = true
    ∧ highestCause 0 = 0 ∧ highestCause 1 = 1 ∧ highestCause 0x7FFF = 15 := by decide +kernel

theorem test_warmResetCauseWrite :
    ends .warmResetCauseWrite (publishing .resetCause .resetWrite) (fun t => readWord t.mem 0 == 0
      && t.cause.publication == .resetVector && t.mpa.port == some (.ir .resetWrite)) = true
    ∧ ends .warmResetCauseWrite (publishing .resetVector .resetWrite) (fun t => readWord t.mem 8 == 0
      && t.stream.length == 1) = true := by decide +kernel

theorem test_witness_publication :
    (publishing .raising .faultWrite).mpa.port = some (.ir .faultWrite)
    ∧ (publishing .vectoring .vectorWrite).mpa.port = some (.ir .vectorWrite)
    ∧ ((0x401 : CauseSet) &&& 0x0C00).getLsbD 10 = true
    ∧ (∀ i, i < 15 → 10 < i → ((0x401 : CauseSet) &&& 0x0C00).getLsbD i = false)
    ∧ (∀ i, i < 15 → ((0x3FF : CauseSet) &&& 0x0C00).getLsbD i = false) := by decide +kernel

/-! ### The notice writer -/

theorem test_notice_words : sampleNotice.words
    = [0x02010300, 0x303, 0x003F70F8, 4, 5, 0x01010500, 0x102, 0x000007FF] := by decide +kernel

/-- The seventh, eighth and ninth notice; the ring full and with room. -/
theorem test_witness_hold :
    (({ ringed with notice := { ringed.notice with hold := List.replicate 7 sampleNotice, writer := .publishing } } :
      State).handNotice sampleNotice).notice.hold.length = 8
    ∧ (({ ringed with notice := { ringed.notice with hold := List.replicate 8 sampleNotice } } : State).handNotice
      sampleNotice).cause.arrivals = causeNoticeLost
    ∧ (ringed.handNotice sampleNotice).notice.writer = .writing 0
    ∧ (({ ringed with page := { ringed.page with consume := 6 } } : State).handNotice sampleNotice).notice.writer = .idle
    ∧ (ringed.handNotice sampleNotice).notice.element = some { sampleNotice with turn := 0 }
    ∧ ringed.notice.writer = .idle ∧ ringed.notice.ringSet = true ∧ ringed.notice.indexWrites = 0
    ∧ ringed.notice.pendingConfig = none ∧ (ringed.notice.produce + 1) % ringed.notice.size ≠ ringed.page.consume := by
  decide +kernel

theorem test_noticeElementWrite :
    ends .noticeElementWrite (elementAt 6) (fun t => readWord t.mem 0x60F8 == 0x102
      && t.notice.writer == .writing 7 && t.notice.produce == 7) = true
    ∧ ends .noticeElementWrite (elementAt 7) (fun t => readWord t.mem 0x60FC == 0x7FF
      && t.notice.writer == .publishing && t.notice.produce == 0) = true := by decide +kernel

theorem test_noticeProduceWrite :
    ends .noticeProduceWrite { serving ringed .produceWrite with
      notice := { ringed.notice with produce := 6, writer := .publishing, element := some sampleNotice } }
      (fun t => readWord t.mem 0x28 == 6 && t.notice.writer == .idle && t.notice.element == none
        && t.cause.arrivals == causeNotice) = true := by decide +kernel

/-- SET NOTICE RING's two index writes. -/
def indexing (n : Nat) : State :=
  { serving { ringed with notice := { ringed.notice with indexWrites := n } } .ringIndexWrite with
    cmd := .dispatched (block 0x50 16 [0x6000, 8]) true }

theorem test_noticeRingIndexWrite :
    ends .noticeRingIndexWrite (indexing 2) (fun t => t.notice.indexWrites == 1
      && t.mpa.port == some (.ir .ringIndexWrite)) = true
    ∧ ends .noticeRingIndexWrite (indexing 1) (fun t => t.notice.indexWrites == 0
      && t.cmd == .reporting .ok 3 []) = true
    ∧ codeOf (block 0x50 16 [0x6000, 8]) = 0x50 := by decide +kernel

/-- The second index write with a configuration pending, and with no command waiting; no element is begun before it. -/
theorem test_second_index_write :
    ends .noticeRingIndexWrite { indexing 1 with notice := { (indexing 1).notice with pendingConfig := some (0x1000, 9) } }
      (fun t => t.notice.base == 0x1000 && t.notice.indexWrites == 2 && t.cmd == (indexing 1).cmd) = true
    ∧ ends .noticeRingIndexWrite { indexing 1 with cmd := .idle, notice := { (indexing 1).notice with hold := [sampleNotice] } }
      (fun t => t.notice.writer == .writing 0 && t.notice.hold.isEmpty && t.cmd == .idle) = true
    ∧ (∀ n ∈ [1, 2], (State.examineRing { indexing n with
        notice := { (indexing n).notice with hold := [sampleNotice] } }).notice.writer = .idle) := by decide +kernel

/-- R191: sizes 7, 8, 256 and 257; a ring that touches the page, and one past memory. -/
theorem test_setNoticeRing :
    ends .setNoticeRing (given up (block 0x50 16 [0x1000, 8])) (fun t => t.notice.ringSet && t.notice.base == 0x1000
      && t.notice.size == 8 && t.notice.indexWrites == 2 && t.page.consume == 0
      && t.mpa.port == some (.ir .ringIndexWrite)) = true
    ∧ ends .setNoticeRing (given up (block 0x50 16 [0x1E000, 256])) (fun t => t.notice.size == 256) = true
    ∧ ends .setNoticeRing (given (elementAt 6) (block 0x50 16 [0x1000, 8])) (fun t => t.notice.pendingConfig ==
      some (0x1000, 8) && t.notice.base == 0x6000) = true
    ∧ (∀ d ∈ [[0x1000, 7], [0x1000, 257], [0x1010, 8], [0x1E020, 256], [0xFE0, 8]],
        reports .setNoticeRing (given up (block 0x50 16 d)) .badField [] = true) := by decide +kernel

theorem test_witness_noticeWriter :
    (elementAt 7).notice.element = some sampleNotice ∧ (elementAt 7).mpa.port = some (.ir .elementWrite)
    ∧ (indexing 1).notice.pendingConfig = none ∧ (indexing 1).mpa.port = some (.ir .ringIndexWrite)
    ∧ (given up (block 0x50 16 [0x1E000, 256])).hands 0x50 (block 0x50 16 [0x1E000, 256])
    ∧ up.notice.writer = .idle ∧ up.notice.indexWrites = 0 ∧ 0x1E000 + 32 * 256 ≤ up.installed := by decide +kernel

/-! ### The command ring -/

theorem test_commandFetchRead :
    ends .commandFetchRead (fetching [] 0x000C0023) (fun t => t.cmd == .fetching [0x000C0023]) = true
    ∧ ends .commandFetchRead (fetching [0x000C0023, 0] 1) (fun t => t.cmd == .dispatched [0x000C0023, 0, 1] false) = true
    ∧ ends .commandFetchRead (fetching [] 0x000C0029) (fun t => t.cmd == .reporting .badCode 3 []) = true
    ∧ ends .commandFetchRead (fetching [] 0x00100023) (fun t => t.cmd == .reporting .badLength 3 []) = true
    ∧ ends .commandFetchRead (fetching [0x00180020, 0] 0x00050000) (fun t => t.cmd == .reporting .badField 3 []) = true
    ∧ ends .commandFetchRead (fetching [0x00180020, 0] 0x00000000) (fun t => t.cmd == .reporting .badField 3 []) = true
    ∧ ends .commandFetchRead (fetching [0x00180020, 0] 0x00020000) (fun t => t.cmd == .reporting .badLength 3 []) = true
    ∧ ends .commandFetchRead (fetching [0x003C0020, 0] 0x00040000) (fun t => t.cmd ==
      .fetching [0x003C0020, 0, 0x00040000]) = true := by decide +kernel

theorem test_resultWordWrite :
    ends .resultWordWrite (answering .resultWrite [9, 8]) (fun t => readWord t.mem 0xFCC == 9
      && t.cmd == .reporting .inUse 4 [8] && t.mpa.port == some (.ir .resultWrite)) = true := by decide +kernel

theorem test_statusWordWrite :
    ends .statusWordWrite (answering .statusWrite []) (fun t => readWord t.mem 0xFC4 == 0x80000006
      && t.cmd == .advancing && t.consumeIndex == 0 && (t.region 15).enabled && t.pendingRegion == none
      && t.cause.arrivals == causeCmdDone) = true := by decide +kernel

theorem test_consumeIndexWrite :
    ends .consumeIndexWrite { serving { up with consumeIndex := 31 } .consumeWrite with cmd := .advancing } (fun t =>
      readWord t.mem 0x24 == 31 && t.cmd == .fetching []) = true
    ∧ ends .consumeIndexWrite { serving up .consumeWrite with cmd := .advancing } (fun t => t.cmd == .idle) = true := by
  decide +kernel

theorem test_witness_commandRing :
    (fetching [0x003C0020, 0] 0x00040000).mpa.port = some (.ir .fetchRead)
    ∧ readWord (fetching [0x003C0020, 0] 0x00040000).mem (0 + 0x800 + 64 * 31 + 4 * 2) = 0x00040000
    ∧ requiredLength 0x20 = some .byCount ∧ requiredLength 0x23 = some (.fixed 12) ∧ requiredLength 0x29 = none
    ∧ (answering .statusWrite []).mpa.port = some (.ir .statusWrite)
    ∧ (answering .resultWrite [9]).mpa.port = some (.ir .resultWrite) := by decide +kernel

/-! ### The laws, in a state far from reset -/

/-- Q1 and its timer in play; a write that the watch unit and one that the control-page unit have yet to take; a
trigger in the queue; the ring set; a cause pending, enabled and asserted; the scanner's read granted. -/
def busy : State :=
  { questing with
    pending := [.watchTakeWrite]
    mem := writeWord (writeWord [] 0x2000 0xC00) 0xC 0x102
    stream :=
      [{ body := .write (byteWrite .proc 0x0C 0), watchDue := true, fogDue := false, pageDue := false },
       { body := .write (wrote 0xC 0x102 .proc), watchDue := true, fogDue := false, pageDue := true }]
    queue := [.watch 9 .proc 0, .expiry 7 none]
    notice := ringed.notice
    cause := { up.cause with pendingSet := 0x401, working := 0x401, enableSet := 0x400, handed := 0x400, vector := 11,
                             int := true }
    scanPort := { access := some (readOf 0x40 .word), data := 0 }
    mpa := { up.mpa with port := some (.master .scan) } }

theorem test_witness_busy_steps :
    (match step busy with
      | .next t => t.queue == [.watch 9 .proc 0, .expiry 7 none, .watch 3 .proc 0] && t.pending.isEmpty
      | .fault _ => false
      | .refused _ => false) = true := by decide +kernel

theorem test_witness_laws_decided :
    MemoryLaw busy ∧ QueueLaw busy ∧ InterruptLaw busy ∧ SettledTimers busy := by
  unfold MemoryLaw QueueLaw InterruptLaw
  decide +kernel

theorem test_witness_ringLaw : RingLaw busy := by
  refine ⟨by decide +kernel, by decide +kernel, by decide +kernel, ?_, ?_⟩
  · unfold ringSizeLawful
    decide +kernel
  · intro c h
    cases h

theorem test_witness_streamLaw : StreamLaw busy := by
  unfold StreamLaw
  decide +kernel

/-- The lawful watches as a decided form. -/
theorem test_witness_watchLaw : WatchLaw busy := by
  intro w
  have h : (busy.watch w).state = .armed ∨ busy.watch w = Watch.cleared := by
    revert w
    decide +kernel
  rcases h with h | h
  · have h3 : w = 3 := by
      revert w
      decide +kernel
    subst h3
    unfold Watch.lawful
    rw [h]
    decide +kernel
  · unfold Watch.lawful
    rw [h]
    rfl

theorem test_witness_engineLaw : EngineLaw busy := by
  refine ⟨?_, ?_, ?_, ?_, ?_⟩
  · unfold StepsLaw
    decide +kernel
  · unfold BindingLaw
    decide +kernel
  · unfold LinkLaw
    decide +kernel
  · unfold DepthLaw
    decide +kernel
  · intro w h
    cases h

theorem test_witness_grantLaw : GrantLaw busy := by
  refine ⟨?_, ?_, by decide +kernel, by decide +kernel, by decide +kernel, ?_⟩
  · intro m h
    cases h
    rfl
  · intro a h
    cases h
  · intro w code h
    cases h

theorem test_witness_alignmentLaw : AlignmentLaw busy := by
  refine ⟨?_, ?_, ?_, ?_, by decide +kernel, ?_, ?_⟩
  · intro n
    have h : ∀ i : Fin 96, (busy.effectRec i.val).addr % 4 = 0 := by decide +kernel
    by_cases hn : n < 96
    · exact h ⟨n, hn⟩
    · simp [State.effectRec, hn, EffectRec.zeroed]
  · intro j h
    cases h
  · intro a j h
    cases h
  · intro a n w h
    cases h
  · intro c h
    cases h
  · intro it hit e he
    have h : ∀ it ∈ busy.stream, (match it.body with | .write e => e.addr % 4 == 0 | .syncMark _ => true) = true := by
      decide +kernel
    have := h it hit
    rw [he] at this
    simpa using this

theorem test_witness_shadowLaw : ShadowLaw busy := by
  refine ⟨by unfold MemoryLaw; decide +kernel, test_witness_watchLaw, test_witness_alignmentLaw,
    ⟨by decide +kernel, (by intro h; cases h), (by intro r h; cases h)⟩, by decide +kernel, (by intro r h; cases h)⟩

theorem test_witness_copyLaw : CopyLaw busy := by
  refine ⟨by unfold MemoryLaw; decide +kernel, test_witness_alignmentLaw, ?_, by decide +kernel⟩
  intro e h
  have hn : busy.nextFor .fog = none := by decide +kernel
  rw [hn] at h
  cases h

/-- The fog unit's next write is of a reveal word, as the law of the copies has it. -/
theorem test_witness_fogNext : ∀ a ∈ [0x010, 0x01C],
    (streamed up (wrote a 1 .proc)).tidyStream.nextFor .fog = some (.write (wrote a 1 .proc))
    ∧ up.isRevealWord a = true ∧ (streamed up (wrote 0x2000 1 .proc)).tidyStream.nextFor .fog = none := by decide +kernel

end Sys2Proof.Tests
end

section
/-! PROOFS. The watch commands ARM WATCH, ARM BIT WATCH and DISARM WATCH (R17 to R19, R21, R22): first what their parts
do, each said once, then each command by its cases, then the obligations. -/

namespace Sys2Proof.Machine

open Sys2Proof

/-! ### A command handed over (R179) -/

theorem handed_of_hands {s : State} {code : Nat} {words : List Word} (h : s.hands code words) :
    s.handed code = some words := by
  obtain ⟨hcmd, hcode⟩ := h
  simp [State.handed, hcmd, hcode]

theorem engineHanded_of_handsEngine {s : State} {code : Nat} {words : List Word} (h : s.handsEngine code words) :
    s.engineHanded code = some words := by
  obtain ⟨hhands, hwork⟩ := h
  simp [State.engineHanded, hwork, handed_of_hands hhands]

theorem takeCommand_of_dispatched {s : State} {words : List Word} {taken : Bool}
    (h : s.cmd = .dispatched words taken) : s.takeCommand = { s with cmd := .dispatched words true } := by
  simp [State.takeCommand, h]

theorem exec_armWatch_of_hands {s : State} {words : List Word} (h : s.hands 0x10 words) :
    exec .armWatch s = .next (s.armWatch words).react := by
  change execArmWatch s = _
  simp [execArmWatch, handed_of_hands h, done_eq]

theorem exec_armBitWatch_of_hands {s : State} {words : List Word} (h : s.hands 0x11 words) :
    exec .armBitWatch s = .next (s.armBitWatch words).react := by
  change execArmBitWatch s = _
  simp [execArmBitWatch, handed_of_hands h, done_eq]

theorem exec_disarmWatch_of_handsEngine {s : State} {words : List Word} (h : s.handsEngine 0x12 words) :
    exec .disarmWatch s = .next (s.disarmWatch words).react := by
  change execDisarmWatch s = _
  simp [execDisarmWatch, engineHanded_of_handsEngine h, done_eq]

/-! ### The fields of an ARM command (12.3, R17) -/

theorem watchNumber_eq_none {n : Nat} (h : 63 < n) : watchNumber n = none := by
  rw [watchNumber, dif_neg (by omega)]

@[simp] theorem watchNumber_val (w : Fin 64) : watchNumber w.val = some w := by
  simp [watchNumber]

/-- The conditions in the order of their codes (12.3). -/
theorem conditionOfCode_eq_getElem? (n : Nat) :
    conditionOfCode n =
      ([.equal, .unequal, .below, .atLeast, .above, .atMost, .less, .notLess, .greater, .notGreater, .changed] :
        List Condition)[n]? := by
  match n with
  | 0 | 1 | 2 | 3 | 4 | 5 | 6 | 7 | 8 | 9 | 10 => rfl
  | _ + 11 => rfl

theorem conditionOfCode_eq_none_iff (n : Nat) : conditionOfCode n = none ↔ 10 < n := by
  rw [conditionOfCode_eq_getElem?, List.getElem?_eq_none_iff]
  exact Nat.lt_iff_add_one_le.symm

/-- A code that is read as a condition is that condition's code. -/
theorem code_of_conditionOfCode {n : Nat} {c : Condition} (h : conditionOfCode n = some c) : c.code = n := by
  unfold conditionOfCode at h
  split at h <;> cases h <;> rfl

/-- R19: the bit-string form admits codes 0, 1 and 10. -/
theorem forBit_eq_false_iff (c : Condition) : c.forBit = false ↔ c.code ≠ 0 ∧ c.code ≠ 1 ∧ c.code ≠ 10 := by
  cases c <;> decide

/-- R17: a filter names no writer exactly when its field of three bits is 0. -/
theorem filterOfWord_isEmpty_iff (w : Word) : (filterOfWord w).isEmpty = true ↔ bits w 16 3 = 0 := by
  simp only [WriterFilter.isEmpty, filterOfWord, bit, bits, Bool.and_eq_true, Bool.not_eq_true', beq_eq_false_iff_ne]
  omega

/-- R17: the word addresses that may not be watched. -/
theorem watchable_eq_false_iff (s : State) (a : Nat) :
    s.watchable a = false ↔
      a % 4 ≠ 0 ∨ s.installed ≤ a
        ∨ (s.inPage a = true ∧ a ≠ s.pageBase + 0x00C ∧ s.isRevealWord a = false) := by
  simp only [State.watchable, State.pageAddr, turnOff, Bool.and_eq_false_iff, Bool.or_eq_false_iff,
    beq_eq_false_iff_ne, decide_eq_false_iff_not, Bool.not_eq_false', Nat.not_lt, or_assoc, and_assoc]

/-- R17: the word addresses that may be watched. -/
theorem watchable_of_open {s : State} {a : Nat} (halign : a % 4 = 0) (hmem : a < s.installed)
    (hpage : s.inPage a = false ∨ a = s.pageBase + 0x00C ∨ s.isRevealWord a = true) : s.watchable a = true := by
  rw [← Bool.not_eq_false, watchable_eq_false_iff]
  rintro (h | h | ⟨hin, hturn, hreveal⟩)
  · exact h halign
  · omega
  · simp_all

/-- R19: an operand of one bit keeps its value. -/
theorem truncateTo_one_of_le {v : Word} (h : v.toNat ≤ 1) : truncateTo 1 v = v := by
  rw [truncateTo, Nat.mod_eq_of_lt (by omega), BitVec.ofNat_toNat, BitVec.setWidth_eq]

/-! ### The BUSY check and the definition taken (R17, R18) -/

theorem armEntry_of_not_free {s : State} {w : Fin 64} (e : Watch) (h : (s.watch w).state ≠ .free) :
    s.armEntry w e = s.report .busy [] := by
  simp [State.armEntry, h]

theorem armEntry_of_free {s : State} {w : Fin 64} {words : List Word} {taken : Bool} (e : Watch)
    (h : (s.watch w).state = .free) (hcmd : s.cmd = .dispatched words taken) :
    s.armEntry w e = State.issueSync { s.updWatch w (fun _ => e) with cmd := .dispatched words true } := by
  rw [State.armEntry, if_pos h, takeCommand_of_dispatched (s := s.updWatch w _) hcmd]

/-! ### ARM WATCH (R17) -/

theorem armWatch_outOfRange {s : State} {words : List Word} (h : 63 < bits (wordAt words 2) 0 8) :
    s.armWatch words = s.report .outOfRange [] := by
  simp [State.armWatch, watchNumber_eq_none h]

theorem armWatch_badField {s : State} {words : List Word} {w : Fin 64} {addr low width : Nat}
    (hw : bits (wordAt words 2) 0 8 = w.val) (haddr : addr = (wordAt words 3).toNat)
    (hlow : low = bits (wordAt words 4) 0 8) (hwidth : width = bits (wordAt words 4) 8 8)
    (h : 10 < bits (wordAt words 2) 8 4 ∨ width = 0 ∨ 32 < width ∨ 31 < low ∨ 32 < low + width
      ∨ bits (wordAt words 2) 16 3 = 0 ∨ s.watchable addr = false) :
    s.armWatch words = s.report .badField [] := by
  subst haddr hlow hwidth
  simp only [State.armWatch, hw, watchNumber_val, filterOfWord_isEmpty_iff]
  split
  · rfl
  · next c hc =>
    rw [if_pos]
    refine h.resolve_left fun hcode => ?_
    rw [(conditionOfCode_eq_none_iff _).mpr hcode] at hc
    cases hc

theorem armWatch_accepted {s : State} {words : List Word} {w : Fin 64} {addr low width : Nat} {c : Condition}
    (hw : bits (wordAt words 2) 0 8 = w.val) (haddr : addr = (wordAt words 3).toNat)
    (hlow : low = bits (wordAt words 4) 0 8) (hwidth : width = bits (wordAt words 4) 8 8)
    (hc : bits (wordAt words 2) 8 4 = c.code) (hpos : 1 ≤ width) (hfit : low + width ≤ 32)
    (hfilter : bits (wordAt words 2) 16 3 ≠ 0) (hwatch : s.watchable addr = true) :
    s.armWatch words = s.armEntry w (armedEntry (wordAt words 2) c addr low width (wordAt words 5)) := by
  subst haddr hlow hwidth
  simp only [State.armWatch, hw, watchNumber_val, hc, conditionOfCode_code, filterOfWord_isEmpty_iff, hfilter, hwatch]
  rw [if_neg (by simp; omega)]

/-! ### ARM BIT WATCH (R19) -/

theorem armBitWatch_outOfRange {s : State} {words : List Word} (h : 63 < bits (wordAt words 2) 0 8) :
    s.armBitWatch words = s.report .outOfRange [] := by
  simp [State.armBitWatch, watchNumber_eq_none h]

theorem armBitWatch_badField {s : State} {words : List Word} {w : Fin 64} {base index : Nat}
    (hw : bits (wordAt words 2) 0 8 = w.val) (hbase : base = (wordAt words 3).toNat)
    (hindex : index = bits (wordAt words 4) 0 16)
    (h : base % 4 ≠ 0 ∨ 4095 < index
      ∨ (bits (wordAt words 2) 8 4 ≠ 0 ∧ bits (wordAt words 2) 8 4 ≠ 1 ∧ bits (wordAt words 2) 8 4 ≠ 10)
      ∨ 1 < (wordAt words 5).toNat ∨ bits (wordAt words 2) 16 3 = 0
      ∨ s.watchable (base + 4 * (index / 32)) = false) :
    s.armBitWatch words = s.report .badField [] := by
  subst hbase hindex
  simp only [State.armBitWatch, hw, watchNumber_val, filterOfWord_isEmpty_iff, bitStringAddr]
  split
  · rfl
  · next c hc =>
    rw [← code_of_conditionOfCode hc, ← forBit_eq_false_iff] at h
    rw [if_pos h]

theorem armBitWatch_accepted {s : State} {words : List Word} {w : Fin 64} {base index : Nat} {c : Condition}
    (hw : bits (wordAt words 2) 0 8 = w.val) (hbase : base = (wordAt words 3).toNat)
    (hindex : index = bits (wordAt words 4) 0 16) (hc : bits (wordAt words 2) 8 4 = c.code)
    (hbit : c.forBit = true) (halign : base % 4 = 0) (hmax : index ≤ 4095) (hoperand : (wordAt words 5).toNat ≤ 1)
    (hfilter : bits (wordAt words 2) 16 3 ≠ 0) (hwatch : s.watchable (base + 4 * (index / 32)) = true) :
    s.armBitWatch words =
      s.armEntry w (armedEntry (wordAt words 2) c (base + 4 * (index / 32)) (index % 32) 1 (wordAt words 5)) := by
  subst hbase hindex
  simp only [State.armBitWatch, hw, watchNumber_val, hc, conditionOfCode_code, filterOfWord_isEmpty_iff, bitStringAddr,
    bitStringLow, hbit, hfilter, hwatch]
  rw [if_neg (by simp; omega)]

/-- R19: an address past the word of a bit string's base is a multiple of 4 as the base is. -/
theorem bitString_addr_mod_four (base index : Nat) : (base + 4 * (index / 32)) % 4 = base % 4 := by
  omega

/-- Settles O26: each check of the two commands by its case, with the entry that a FREE watch takes. -/
theorem armCommandsDefineASyncingWatch : Obligations.ArmCommandsDefineASyncingWatch := by
  refine ⟨conditionOfCode_eq_getElem?, conditionOfCode_code, rfl, rfl, ?armWatch, ?armBitWatch⟩
  case armWatch =>
    intro s words addr low width hands haddr hlow hwidth
    rw [exec_armWatch_of_hands hands]
    refine ⟨fun hnum => by rw [armWatch_outOfRange hnum]; rfl, fun w hw => ⟨fun hbad => ?_, ?_⟩⟩
    · rw [armWatch_badField hw haddr hlow hwidth (by rwa [watchable_eq_false_iff])]
      rfl
    · intro c hc hpos hfit hfilter halign hmem hpage
      rw [armWatch_accepted hw haddr hlow hwidth hc hpos hfit hfilter (watchable_of_open halign hmem hpage)]
      refine ⟨fun hbusy => ?_, fun hfree => ?_⟩
      · rw [armEntry_of_not_free _ hbusy]
        rfl
      · rw [armEntry_of_free _ hfree hands.1]
        rfl
  case armBitWatch =>
    intro s words base index addr hands hbase hindex haddr
    subst haddr
    rw [exec_armBitWatch_of_hands hands]
    refine ⟨fun hnum => by rw [armBitWatch_outOfRange hnum]; rfl, fun w hw => ⟨fun hbad => ?_, ?_⟩⟩
    · rw [armBitWatch_badField hw hbase hindex (by rw [watchable_eq_false_iff]; tauto)]
      rfl
    · intro c hform hc halign hmax hoperand hfilter hmem hpage
      have hbit : c.forBit = true := by
        simp only [List.mem_cons, List.not_mem_nil, or_false] at hform
        obtain rfl | rfl | rfl := hform <;> rfl
      have hwatch := watchable_of_open ((bitString_addr_mod_four base index).trans halign) hmem hpage
      rw [armBitWatch_accepted hw hbase hindex hc hbit halign hmax hoperand hfilter hwatch]
      refine ⟨fun hbusy => ?_, fun hfree => ?_⟩
      · rw [armEntry_of_not_free _ hbusy]
        rfl
      · rw [armEntry_of_free _ hfree hands.1, armedEntry, truncateTo_one_of_le hoperand]
        rfl

/-! ### DISARM WATCH (R21, R22) -/

theorem mem_runningSteps_iff (s : State) (st : StepRec) :
    st ∈ s.runningSteps ↔
      ∃ q : Fin 32, (s.quest q).state.running = true ∧ ∃ i, i < (s.quest q).stepCount ∧ s.questStep q i = st := by
  simp [State.runningSteps, State.questSteps]

theorem mem_stepEffects_iff (s : State) (st : StepRec) (r : EffectRec) :
    r ∈ s.stepEffects st ↔ ∃ n, n < st.effectCount ∧ s.effectRec (st.firstEffect + n) = r := by
  simp [State.stepEffects]

/-- R21: a step of a running quest names the watch as its trigger, its guard or the watch reference of an effect. -/
theorem watchInUse_iff (s : State) (w : Fin 64) :
    s.watchInUse w = true ↔
      ∃ q : Fin 32, (s.quest q).state.running = true ∧ ∃ i, i < (s.quest q).stepCount ∧
        ((s.questStep q i).trigger = some w ∨ (s.questStep q i).guard = some w
          ∨ ∃ n, n < (s.questStep q i).effectCount ∧
              (s.effectRec ((s.questStep q i).firstEffect + n)).kind.usesWatch = true
              ∧ (s.effectRec ((s.questStep q i).firstEffect + n)).ref = some w) := by
  have heffects : ∀ st : StepRec,
      (s.stepEffects st).any (fun r => r.kind.usesWatch && r.ref == some w) = true ↔
        ∃ n, n < st.effectCount ∧ (s.effectRec (st.firstEffect + n)).kind.usesWatch = true
          ∧ (s.effectRec (st.firstEffect + n)).ref = some w := by
    intro st
    simp [List.any_eq_true, mem_stepEffects_iff]
  simp only [State.watchInUse, List.any_eq_true, mem_runningSteps_iff, Bool.or_eq_true, beq_iff_eq, heffects, or_assoc]
  constructor
  · rintro ⟨st, ⟨q, hrun, i, hi, rfl⟩, hnames⟩
    exact ⟨q, hrun, i, hi, hnames⟩
  · rintro ⟨q, hrun, i, hi, hnames⟩
    exact ⟨_, ⟨q, hrun, i, hi, rfl⟩, hnames⟩

theorem withSyncRead_self {s : State} {r : Option SyncRead} (h : s.syncRead = r) : { s with syncRead := r } = s := by
  subst h
  rfl

/-- R22: only the outstanding read changes, and only where it is the watch's. -/
theorem dropSync_eq (s : State) (w : Fin 64) :
    s.dropSync w =
      { s with syncRead := s.syncRead.map (fun r => if r.watch = w then { r with stale := true } else r) } := by
  unfold State.dropSync
  cases hr : s.syncRead with
  | none => exact (withSyncRead_self hr).symm
  | some r =>
    by_cases hw : r.watch = w
    · simp [State.staleSync, hr, hw]
    · simp [hw, withSyncRead_self hr]

/-- R22, R62: the entry cleared, the queue purged and the read given up. -/
theorem freeWatch_eq (s : State) (w : Fin 64) :
    s.freeWatch w =
      { s.updWatch w (fun _ => Watch.cleared) with
        queue := s.queue.filter (fun e => !e.isWatchOf w)
        syncRead := s.syncRead.map (fun r => if r.watch = w then { r with stale := true } else r) } := by
  simp [State.freeWatch, dropSync_eq]

theorem disarmWatch_outOfRange {s : State} {words : List Word} (h : 63 < bits (wordAt words 2) 0 8) :
    s.disarmWatch words = s.report .outOfRange [] := by
  simp [State.disarmWatch, watchNumber_eq_none h]

theorem disarmWatch_of_number {s : State} {words : List Word} {w : Fin 64} (h : bits (wordAt words 2) 0 8 = w.val) :
    s.disarmWatch words =
      if (s.watch w).state = .free then s.report .notDefined []
      else if s.watchInUse w then s.report .inUse []
      else (s.freeWatch w).report .ok [] := by
  simp [State.disarmWatch, h]

/-- Settles O28: the checks in their order, then the freed entry by `freeWatch_eq`. -/
theorem disarmWatchFreesAndPurges : Obligations.DisarmWatchFreesAndPurges := by
  refine ⟨rfl, fun s words hands => ?_⟩
  rw [exec_disarmWatch_of_handsEngine hands]
  refine ⟨fun hnum => by rw [disarmWatch_outOfRange hnum]; rfl, fun w hw inUse huse => ?_⟩
  rw [← watchInUse_iff] at huse
  rw [disarmWatch_of_number hw]
  refine ⟨fun hfree => ?_, fun hdef hin => ?_, fun hdef hnot => ?_⟩
  · rw [if_pos hfree]
    rfl
  · rw [if_neg hdef, if_pos (huse.mp hin)]
    rfl
  · rw [if_neg hdef, if_neg (fun h => hnot (huse.mpr h)), freeWatch_eq]
    rfl

end Sys2Proof.Machine
end

section
/-! PROOFS. LOAD QUEST, UNLOAD QUEST and READ QUEST (R44, R45, R51, R52): the codes of a quest's fields, how a word
packed from fields reads back, then each command by its cases, then the obligation. -/

namespace Sys2Proof.Machine

open Sys2Proof

/-! ### The commands handed over (R179) -/

theorem exec_loadQuest_of_handsEngine {s : State} {words : List Word} (h : s.handsEngine 0x22 words) :
    exec .loadQuest s = .next (s.loadQuest words).react := by
  change execLoadQuest s = _
  simp [execLoadQuest, engineHanded_of_handsEngine h, done_eq]

theorem exec_unloadQuest_of_handsEngine {s : State} {words : List Word} (h : s.handsEngine 0x27 words) :
    exec .unloadQuest s = .next (s.unloadQuest words).react := by
  change execUnloadQuest s = _
  simp [execUnloadQuest, engineHanded_of_handsEngine h, done_eq]

theorem exec_readQuest_of_handsEngine {s : State} {words : List Word} (h : s.handsEngine 0x28 words) :
    exec .readQuest s = .next (s.readQuest words).react := by
  change execReadQuest s = _
  simp [execReadQuest, engineHanded_of_handsEngine h, done_eq]

/-! ### The quest that word 2 of a command names (12.6) -/

theorem questOf_eq_none {words : List Word} (h : 31 < bits (wordAt words 2) 0 8) : questOf words = none := by
  rw [questOf, questNumber, dif_neg (by omega)]

theorem questOf_eq_some {words : List Word} {q : Fin 32} (h : bits (wordAt words 2) 0 8 = q.val) :
    questOf words = some q := by
  simp [questOf, questNumber, h]

/-! ### The codes of a quest's fields (12.3), each within the width of its field -/

/-- The order modes in the order of their codes. -/
theorem orderOfCode_eq_getElem? (n : Nat) : orderOfCode n = ([.strict, .loose] : List OrderMode)[n]? := by
  match n with
  | 0 | 1 => rfl
  | _ + 2 => rfl

/-- R44: the codes that name no owner. -/
theorem ownerOfCode_eq_none {n : Nat} (h : 6 ≤ n) (hany : n ≠ 14) : ownerOfCode n = none := by
  rw [ownerOfCode, dif_neg (by omega), if_neg hany]

theorem QuestState.code_lt (st : QuestState) : st.code < 2 ^ 3 := by cases st <;> decide

theorem OrderMode.code_lt (o : OrderMode) : o.code < 2 ^ 1 := by cases o <;> decide

theorem Owner.code_lt (o : Owner) : o.code < 2 ^ 4 := by
  cases o with
  | player p => exact p.isLt.trans (by decide)
  | any => decide

theorem timerCode_lt (t : Option (Fin 8)) : timerCode t < 2 ^ 4 := by
  cases t with
  | none => decide
  | some t => exact t.isLt.trans (by decide)

theorem questCode_lt (q : Option (Fin 32)) : questCode q < 2 ^ 8 := by
  cases q with
  | none => decide
  | some q => exact q.isLt.trans (by decide)

theorem reasonCode_lt (r : Option FailReason) : reasonCode r < 2 ^ 3 := by
  cases r with
  | none => decide
  | some r => cases r <;> decide

/-! ### Words packed from fields (R193) -/

/-- A field that lies within the word is read from the packed number itself. -/
theorem bits_ofNat (n : Nat) {lo len : Nat} (h : lo + len ≤ 32) :
    bits (BitVec.ofNat 32 n) lo len = n / 2 ^ lo % 2 ^ len := by
  have hsplit : (2 : Nat) ^ 32 = 2 ^ lo * 2 ^ (32 - lo) := by rw [← Nat.pow_add]; congr 1; omega
  have hlen : (2 : Nat) ^ len ∣ 2 ^ (32 - lo) := Nat.pow_dvd_pow 2 (by omega)
  rw [bits, BitVec.toNat_ofNat, hsplit, Nat.mod_mul_right_div_self, Nat.mod_mod_of_dvd _ hlen]

/-- A flag is a field of one bit. -/
theorem flagAt_eq_fieldAt (n : Nat) (b : Bool) : flagAt n b = fieldAt n 1 b.toNat := by
  cases b <;> simp [flagAt, fieldAt]

/-- Word 0 of READ QUEST (12.6). -/
def Quest.stateWord (c : Quest) : Word :=
  BitVec.ofNat 32
    (fieldAt 0 3 c.state.code + fieldAt 3 1 c.order.code + flagAt 4 c.late + fieldAt 8 2 c.depth
      + fieldAt 12 4 c.current + fieldAt 16 4 c.owner.code + fieldAt 20 4 (timerCode c.bound)
      + fieldAt 24 3 (reasonCode c.reason))

/-- Word 1 of READ QUEST. -/
def Quest.linkWord (c : Quest) : Word :=
  BitVec.ofNat 32
    (fieldAt 0 8 c.firstStep + fieldAt 8 8 c.stepCount + fieldAt 16 8 (questCode c.parent)
      + fieldAt 24 8 (questCode c.child))

/-- Word 3 of READ QUEST. -/
def Quest.stepWord (c : Quest) : Word := BitVec.ofNat 32 (fieldAt 0 8 (c.firstStep + c.current))

theorem Quest.words_eq (c : Quest) : c.words = [c.stateWord, c.linkWord, c.tag, c.stepWord] := rfl

theorem Quest.stateWord_fields (c : Quest) :
    bits c.stateWord 0 3 = c.state.code ∧ bits c.stateWord 3 1 = c.order.code ∧ bit c.stateWord 4 = c.late
      ∧ bits c.stateWord 8 2 = c.depth % 4 ∧ bits c.stateWord 12 4 = c.current % 16
      ∧ bits c.stateWord 16 4 = c.owner.code ∧ bits c.stateWord 20 4 = timerCode c.bound
      ∧ bits c.stateWord 24 3 = reasonCode c.reason := by
  have hstate := c.state.code_lt
  have horder := c.order.code_lt
  have howner := c.owner.code_lt
  have htimer := timerCode_lt c.bound
  have hreason := reasonCode_lt c.reason
  have hflag := c.late.toNat_lt
  have hlate : bit c.stateWord 4 = (c.late.toNat == 1) := by
    rw [bit, Quest.stateWord, bits_ofNat _ (by decide), flagAt_eq_fieldAt]
    simp only [fieldAt]
    congr 1
    omega
  refine ⟨?state, ?order, hlate.trans (by cases c.late <;> rfl), ?depth, ?current, ?owner, ?bound, ?reason⟩
  all_goals
    rw [Quest.stateWord, bits_ofNat _ (by decide), flagAt_eq_fieldAt]
    simp only [fieldAt]
    omega

theorem Quest.stateWord_elsewhere (c : Quest) :
    bits c.stateWord 5 3 = 0 ∧ bits c.stateWord 10 2 = 0 ∧ bits c.stateWord 27 5 = 0 := by
  refine ⟨?_, ?_, ?_⟩
  all_goals
    rw [Quest.stateWord, bits_ofNat _ (by decide), flagAt_eq_fieldAt]
    simp only [fieldAt]
    omega

theorem Quest.linkWord_fields (c : Quest) :
    bits c.linkWord 0 8 = c.firstStep % 256 ∧ bits c.linkWord 8 8 = c.stepCount % 256
      ∧ bits c.linkWord 16 8 = questCode c.parent ∧ bits c.linkWord 24 8 = questCode c.child := by
  have hparent := questCode_lt c.parent
  have hchild := questCode_lt c.child
  refine ⟨?_, ?_, ?_, ?_⟩
  all_goals
    rw [Quest.linkWord, bits_ofNat _ (by decide)]
    simp only [fieldAt]
    omega

theorem Quest.stepWord_fields (c : Quest) :
    bits c.stepWord 0 8 = (c.firstStep + c.current) % 256 ∧ bits c.stepWord 8 24 = 0 := by
  refine ⟨?_, ?_⟩
  all_goals
    rw [Quest.stepWord, bits_ofNat _ (by decide)]
    simp only [fieldAt]
    omega

/-! ### LOAD QUEST (R44, R45) -/

/-- R45: the context of a quest just loaded. -/
def loadedQuest (first count : Nat) (order : OrderMode) (owner : Owner) (tag : Word) : Quest :=
  { state := .loaded, firstStep := first, stepCount := count, current := 0, order := order, owner := owner, tag := tag,
    parent := none, child := none, depth := 0, bound := none, late := false, reason := none }

theorem loadQuest_outOfRange {s : State} {words : List Word}
    (h : 31 < bits (wordAt words 2) 0 8 ∨ 127 < bits (wordAt words 2) 8 8) :
    s.loadQuest words = s.report .outOfRange [] := by
  unfold State.loadQuest
  obtain hnum | hfirst := h
  · rw [questOf_eq_none hnum]
  · cases questOf words with
    | none => rfl
    | some q => exact if_pos hfirst

section
variable {s : State} {words : List Word} {q : Fin 32} {order : OrderMode} {owner : Owner}
  (hq : bits (wordAt words 2) 0 8 = q.val) (hfirst : bits (wordAt words 2) 8 8 ≤ 127)
include hq hfirst

theorem loadQuest_badCount (h : bits (wordAt words 2) 16 5 = 0 ∨ 16 < bits (wordAt words 2) 16 5) :
    s.loadQuest words = s.report .badField [] := by
  simp only [State.loadQuest, questOf_eq_some hq, Nat.not_lt.mpr hfirst, h, if_false, if_true]

variable (hpos : 1 ≤ bits (wordAt words 2) 16 5) (hmax : bits (wordAt words 2) 16 5 ≤ 16)
include hpos hmax

theorem loadQuest_pastTable (h : 128 < bits (wordAt words 2) 8 8 + bits (wordAt words 2) 16 5) :
    s.loadQuest words = s.report .outOfRange [] := by
  have hcount : ¬(bits (wordAt words 2) 16 5 = 0 ∨ 16 < bits (wordAt words 2) 16 5) := by omega
  simp only [State.loadQuest, questOf_eq_some hq, Nat.not_lt.mpr hfirst, hcount, h, if_false, if_true]

variable (hfit : bits (wordAt words 2) 8 8 + bits (wordAt words 2) 16 5 ≤ 128)
include hfit

theorem loadQuest_badCode
    (h : orderOfCode (bits (wordAt words 2) 24 2) = none ∨ ownerOfCode (bits (wordAt words 2) 28 4) = none) :
    s.loadQuest words = s.report .badField [] := by
  have hcount : ¬(bits (wordAt words 2) 16 5 = 0 ∨ 16 < bits (wordAt words 2) 16 5) := by omega
  simp only [State.loadQuest, questOf_eq_some hq, Nat.not_lt.mpr hfirst, hcount, Nat.not_lt.mpr hfit, if_false]
  split
  · next horder howner => exact absurd h (by simp [horder, howner])
  · rfl

theorem loadQuest_of_fields (horder : orderOfCode (bits (wordAt words 2) 24 2) = some order)
    (howner : ownerOfCode (bits (wordAt words 2) 28 4) = some owner) :
    s.loadQuest words =
      if (s.quest q).state.running then s.report .busy []
      else
        (s.updQuest q fun _ =>
          loadedQuest (bits (wordAt words 2) 8 8) (bits (wordAt words 2) 16 5) order owner (wordAt words 3)).report
            .ok [] := by
  have hcount : ¬(bits (wordAt words 2) 16 5 = 0 ∨ 16 < bits (wordAt words 2) 16 5) := by omega
  simp only [State.loadQuest, questOf_eq_some hq, Nat.not_lt.mpr hfirst, hcount, Nat.not_lt.mpr hfit, if_false, horder,
    howner, loadedQuest]

end

/-! ### UNLOAD QUEST (R51) -/

theorem unloadQuest_outOfRange {s : State} {words : List Word} (h : 31 < bits (wordAt words 2) 0 8) :
    s.unloadQuest words = s.report .outOfRange [] := by
  rw [State.unloadQuest, questOf_eq_none h]

theorem unloadQuest_of_number {s : State} {words : List Word} {q : Fin 32}
    (hq : bits (wordAt words 2) 0 8 = q.val) :
    s.unloadQuest words =
      if (s.quest q).state = .vacant then s.report .notDefined []
      else if (s.quest q).state.running then s.report .busy []
      else (s.updQuest q (fun _ => Quest.cleared)).report .ok [] := by
  rw [State.unloadQuest, questOf_eq_some hq]
  cases hstate : (s.quest q).state <;> simp [hstate, QuestState.running]

/-! ### READ QUEST (R52) -/

theorem readQuest_outOfRange {s : State} {words : List Word} (h : 31 < bits (wordAt words 2) 0 8) :
    s.readQuest words = s.report .outOfRange [] := by
  rw [State.readQuest, questOf_eq_none h]

theorem readQuest_of_number {s : State} {words : List Word} {q : Fin 32} (hq : bits (wordAt words 2) 0 8 = q.val) :
    s.readQuest words =
      s.report .ok [(s.quest q).stateWord, (s.quest q).linkWord, (s.quest q).tag, (s.quest q).stepWord] := by
  rw [State.readQuest, questOf_eq_some hq]
  exact congrArg (s.report .ok) (s.quest q).words_eq

/-- Settles O31: the codes, then each command by the lemma of each of its cases; READ QUEST's words field by field. -/
theorem loadUnloadAndReadQuest : Obligations.LoadUnloadAndReadQuest := by
  refine ⟨orderOfCode_eq_getElem?, ⟨ownerOfCode_player, rfl, fun n => ownerOfCode_eq_none⟩, orderOfCode_code,
    ownerOfCode_code, rfl, rfl, rfl, ⟨fun _ => rfl, rfl⟩, ⟨fun _ => rfl, rfl⟩, rfl, rfl, rfl, ?load, ?unload, ?read⟩
  case load =>
    intro s words first count hands hfirst hcount
    subst hfirst hcount
    rw [exec_loadQuest_of_handsEngine hands]
    refine ⟨fun hrange => by rw [loadQuest_outOfRange hrange]; rfl, fun q hq hle => ⟨fun hbad => ?_, ?_, ?_⟩⟩
    · rw [loadQuest_badCount hq hle hbad]
      rfl
    · intro hpos hmax hpast
      rw [loadQuest_pastTable hq hle hpos hmax hpast]
      rfl
    · intro hpos hmax hfit
      refine ⟨fun hcode => ?_, fun order owner horder howner => ?_⟩
      · rw [loadQuest_badCode hq hle hpos hmax hfit hcode]
        rfl
      · rw [loadQuest_of_fields hq hle hpos hmax hfit horder howner]
        refine ⟨fun hrunning => ?_, fun hrest => ?_⟩
        · rw [if_pos hrunning]
          rfl
        · rw [if_neg (Bool.eq_false_iff.mp hrest)]
          rfl
  case unload =>
    intro s words hands
    rw [exec_unloadQuest_of_handsEngine hands]
    refine ⟨fun hnum => by rw [unloadQuest_outOfRange hnum]; rfl, fun q hq => ?_⟩
    rw [unloadQuest_of_number hq]
    refine ⟨fun hvacant => ?_, fun hrunning => ?_, fun hrest => ?_⟩
    · rw [if_pos hvacant]
      rfl
    · have hdefined : (s.quest q).state ≠ .vacant := fun hvacant => by simp [hvacant, QuestState.running] at hrunning
      rw [if_neg hdefined, if_pos hrunning]
      rfl
    · obtain hst | hst | hst := hrest <;> rw [hst] <;> rfl
  case read =>
    intro s words hands
    rw [exec_readQuest_of_handsEngine hands]
    refine ⟨fun hnum => by rw [readQuest_outOfRange hnum]; rfl, fun q hq => ?_⟩
    rw [readQuest_of_number hq]
    obtain ⟨hstate, horder, hlate, hdepth, hcurrent, howner, hbound, hreason⟩ := (s.quest q).stateWord_fields
    obtain ⟨hfirst, hcount, hparent, hchild⟩ := (s.quest q).linkWord_fields
    obtain ⟨hstep, hstepRest⟩ := (s.quest q).stepWord_fields
    obtain ⟨hgap5, hgap10, hgap27⟩ := (s.quest q).stateWord_elsewhere
    exact ⟨(s.quest q).stateWord, (s.quest q).linkWord, (s.quest q).stepWord, rfl, hstate,
      horder, hlate, hdepth, hcurrent, howner, hbound, hreason, hfirst, hcount, hparent, hchild, hstep, hgap5, hgap10,
      hgap27, hstepRest⟩

end Sys2Proof.Machine
end

section
/-! PROOFS. The new value and the new word of an effect (R100 to R104): a field put into a word and a truncated
value, bit by bit; the saturated sum; the new value of each kind; then the obligation. -/

namespace Sys2Proof.Machine

open Sys2Proof

/-! ### A field put into a word, and a truncated value, bit by bit -/

/-- R100: the bits of the field come from the new value, the others from the word. -/
theorem insertField_getLsbD (w : Word) (low width : Nat) (v : Word) (i : Nat) (hi : i < 32) :
    (insertField w low width v).getLsbD i =
      if low ≤ i ∧ i < low + width then v.getLsbD (i - low) else w.getLsbD i := by
  rw [insertField, BitVec.getLsbD_or, BitVec.getLsbD_and, BitVec.getLsbD_not, BitVec.getLsbD_and,
    BitVec.getLsbD_shiftLeft, fieldMask_getLsbD low width i hi]
  by_cases hlow : low ≤ i
  · by_cases hhigh : i < low + width
    · simp [hlow, hhigh, hi]
    · simp [hhigh, hi]
  · simp [hlow, hi]

theorem truncateTo_getLsbD (width : Nat) (v : Word) (i : Nat) :
    (truncateTo width v).getLsbD i = (decide (i < width) && v.getLsbD i) := by
  rw [truncateTo, BitVec.getLsbD_ofNat, Nat.testBit_mod_two_pow, BitVec.testBit_toNat]
  by_cases hi : i < 32
  · simp [hi]
  · simp [hi, BitVec.getLsbD_of_ge v i (by omega)]

/-- A value that the width holds keeps all its bits. -/
theorem truncateTo_eq_self {width : Nat} {v : Word} (h : v.toNat < 2 ^ width) : truncateTo width v = v := by
  rw [truncateTo, Nat.mod_eq_of_lt h, BitVec.ofNat_toNat, BitVec.setWidth_eq]

/-! ### The saturated sum (R103) -/

/-- The sum, held between 0 and the largest value of the width. -/
theorem addSaturated_toNat {width : Nat} (hw : width ≤ 32) (old addend : Word) :
    ((addSaturated width old addend).toNat : Int) =
      max 0 (min ((old.toNat : Int) + addend.toInt) (2 ^ width - 1)) := by
  have hpos : 0 < 2 ^ width := Nat.two_pow_pos width
  have hle : 2 ^ width ≤ 2 ^ 32 := Nat.pow_le_pow_right (by decide) hw
  have hmax : ((2 ^ width - 1 : Nat) : Int) = 2 ^ width - 1 := by
    rw [Nat.cast_sub hpos]
    norm_num
  unfold addSaturated
  rw [← hmax]
  dsimp only
  split_ifs with hneg hover
  · change (0 : Int) = _
    omega
  · rw [BitVec.toNat_ofNat, Nat.mod_eq_of_lt (by omega)]
    omega
  · rw [BitVec.toNat_ofNat, Nat.mod_eq_of_lt (by omega)]
    omega

namespace EffectJob

variable {j : EffectJob}

/-! ### The new value of each kind (R101 to R104) -/

theorem newValue_of_setBit (word : Word) (h : j.record.kind = .setBit) : j.newValue word = 1 := by
  simp [newValue, newFieldValue, h]

theorem newValue_of_clearBit (word : Word) (h : j.record.kind = .clearBit) : j.newValue word = 0 := by
  simp [newValue, newFieldValue, h]

theorem newValue_of_write (word : Word) (h : j.record.kind = .writeField ∨ j.record.kind = .writeIf) :
    j.newValue word = truncateTo j.record.width j.record.value := by
  obtain h | h := h <;> simp [newValue, newFieldValue, h]

theorem newValue_of_addField (word : Word) (h : j.record.kind = .addField) :
    j.newValue word = addSaturated j.record.width (j.oldValue word) j.record.value := by
  simp [newValue, newFieldValue, h]

theorem newValue_of_copyShadow (word : Word) (h : j.record.kind = .copyShadow) :
    j.newValue word = truncateTo j.record.width j.captured := by
  simp [newValue, newFieldValue, h]

/-- A field of one bit is 0 exactly where the word's bit is clear. -/
theorem oldValue_eq_zero_iff (word : Word) (hw : j.record.width = 1) (hlow : j.record.lowBit ≤ 31) :
    j.oldValue word = 0 ↔ word.getLsbD j.record.lowBit = false := by
  have hbit : ∀ i, (j.oldValue word).getLsbD i = (decide (i < 1) && word.getLsbD (j.record.lowBit + i)) := by
    intro i
    rw [oldValue_getLsbD j word i (by omega), hw]
  constructor
  · intro hzero
    simpa [hzero] using (hbit 0).symm
  · intro hclear
    refine BitVec.eq_of_getLsbD_eq fun i hi => ?_
    rw [hbit i]
    match i with
    | 0 => simp [hclear]
    | _ + 1 => simp

/-- R101: FLIP_BIT gives the value that the bit did not have. -/
theorem newValue_of_flipBit (word : Word) (h : j.record.kind = .flipBit) (hw : j.record.width = 1)
    (hlow : j.record.lowBit ≤ 31) :
    j.newValue word = if word.getLsbD j.record.lowBit = false then 1 else 0 := by
  simp only [newValue, newFieldValue, h, oldValue_eq_zero_iff word hw hlow]

/-! ### The new word (R100) -/

theorem newWord_getLsbD_outside (word : Word) {i : Nat}
    (h : i < j.record.lowBit ∨ j.record.lowBit + j.record.width ≤ i) :
    (j.newWord word).getLsbD i = word.getLsbD i := by
  by_cases hi : i < 32
  · rw [newWord, insertField_getLsbD _ _ _ _ _ hi, if_neg (by omega)]
  · rw [BitVec.getLsbD_of_ge _ _ (by omega), BitVec.getLsbD_of_ge _ _ (by omega)]

theorem newWord_getLsbD_field (word : Word) {i : Nat} (hfit : j.record.lowBit + j.record.width ≤ 32)
    (hi : i < j.record.width) :
    (j.newWord word).getLsbD (j.record.lowBit + i) = (j.newValue word).getLsbD i := by
  rw [newWord, insertField_getLsbD _ _ _ _ _ (by omega), if_pos (by omega), Nat.add_sub_cancel_left]

/-- The bit that a field of width 1 is. -/
theorem newWord_getLsbD_lowBit (word : Word) (hw : j.record.width = 1) (hlow : j.record.lowBit ≤ 31) :
    (j.newWord word).getLsbD j.record.lowBit = (j.newValue word).getLsbD 0 :=
  newWord_getLsbD_field (i := 0) word (by omega) (by omega)

end EffectJob

open EffectJob

/-- Settles O40: the old value bit by bit, then each kind by its new value, the word by the field put into it, and the
saturated sum by its bounds. -/
theorem effectsComputeTheirNewValues : Obligations.EffectsComputeTheirNewValues := by
  refine ⟨fun j word i _ hfit => oldValue_getLsbD j word i hfit, ?bitKinds,
    fun j word _ hfit => ⟨fun i => newWord_getLsbD_outside word, fun i => newWord_getLsbD_field word hfit⟩,
    ?write, ?copy, ?add⟩
  case bitKinds =>
    intro j word hw hlow
    rw [newWord_getLsbD_lowBit word hw hlow]
    refine ⟨fun hset => ?_, fun hclear => ?_, fun hflip => ?_⟩
    · rw [newValue_of_setBit word hset]
      exact ⟨rfl, rfl⟩
    · rw [newValue_of_clearBit word hclear]
      exact ⟨rfl, rfl⟩
    · rw [newValue_of_flipBit word hflip hw hlow]
      cases word.getLsbD j.record.lowBit <;> decide
  case write =>
    intro j word i _ _ hkind
    rw [newValue_of_write word hkind, truncateTo_getLsbD]
  case copy =>
    intro j word watchWidth _ _ hkind hcaptured
    rw [newValue_of_copyShadow word hkind]
    exact ⟨fun hle => truncateTo_eq_self (hcaptured.trans_le (Nat.pow_le_pow_right (by decide) hle)),
      fun _ i => truncateTo_getLsbD _ _ i⟩
  case add =>
    intro j word sum _ hfit hkind hsum
    have hvalue := addSaturated_toNat (width := j.record.width) (by omega) (j.oldValue word) j.record.value
    rw [← newValue_of_addField word hkind, ← hsum] at hvalue
    have hpos : (0 : Int) < 2 ^ j.record.width := by positivity
    exact ⟨fun _ => by omega, fun _ => by omega, fun _ _ => by omega⟩

end Sys2Proof.Machine
end

section
/-! PROOFS. SET TIMER, PRESET TIMER, RUN TIMER, STOP TIMER and READ TIMER (R126 to R130): the occasion, the fields and
the timer's own change, each said once; then each command by its cases, then the obligations. -/

namespace Sys2Proof.Machine

open Sys2Proof

/-! ### The commands handed over (R179), with no expiry under way (R116, log 9) -/

theorem exec_setTimer_of_hands {s : State} {words : List Word} (h : s.hands 0x30 words) (hsettled : SettledTimers s) :
    exec .setTimer s = .next (s.setTimer words).react := by
  change execSetTimer s = _
  simp [execSetTimer, handed_of_hands h, settleTimers_settled s hsettled, done_eq]

theorem exec_presetTimer_of_hands {s : State} {words : List Word} (h : s.hands 0x31 words)
    (hsettled : SettledTimers s) :
    exec .presetTimer s = .next (s.presetTimer words).react := by
  change execPresetTimer s = _
  simp [execPresetTimer, handed_of_hands h, settleTimers_settled s hsettled, done_eq]

theorem exec_runTimer_of_hands {s : State} {words : List Word} (h : s.hands 0x32 words) (hsettled : SettledTimers s) :
    exec .runTimer s = .next (s.runTimer words).react := by
  change execRunTimer s = _
  simp [execRunTimer, handed_of_hands h, settleTimers_settled s hsettled, done_eq]

theorem exec_stopTimer_of_hands {s : State} {words : List Word} (h : s.hands 0x33 words) (hsettled : SettledTimers s) :
    exec .stopTimer s = .next (s.stopTimer words).react := by
  change execStopTimer s = _
  simp [execStopTimer, handed_of_hands h, settleTimers_settled s hsettled, done_eq]

theorem exec_readTimer_of_hands {s : State} {words : List Word} (h : s.hands 0x34 words) (hsettled : SettledTimers s) :
    exec .readTimer s = .next (s.readTimer words).react := by
  change execReadTimer s = _
  simp [execReadTimer, handed_of_hands h, settleTimers_settled s hsettled, done_eq]

/-! ### The timer that word 2 of a command names (12.7) -/

theorem timerOf_eq_none {words : List Word} (h : 7 < bits (wordAt words 2) 0 8) : timerOf words = none := by
  rw [timerOf, timerNumber, dif_neg (by omega)]

theorem timerOf_eq_some {words : List Word} {k : Fin 8} (h : bits (wordAt words 2) 0 8 = k.val) :
    timerOf words = some k := by
  simp [timerOf, timerNumber, h]

/-! ### The codes of a timer's fields (12.3), each within the width of its field -/

@[simp] theorem clockOfCode_code (c : Clock) : clockOfCode c.code = some c := by cases c <;> rfl

@[simp] theorem modeOfCode_code (m : TimerMode) : modeOfCode m.code = some m := by cases m <;> rfl

theorem clockOfCode_eq_none {n : Nat} (h : 2 ≤ n) : clockOfCode n = none := by
  match n with
  | 0 | 1 => omega
  | _ + 2 => rfl

theorem modeOfCode_eq_none {n : Nat} (h : 2 ≤ n) : modeOfCode n = none := by
  match n with
  | 0 | 1 => omega
  | _ + 2 => rfl

theorem Clock.code_lt (c : Clock) : c.code < 2 ^ 1 := by cases c <;> decide

theorem TimerMode.code_lt (m : TimerMode) : m.code < 2 ^ 1 := by cases m <;> decide

theorem TimerState.code_lt (st : TimerState) : st.code < 2 ^ 1 := by cases st <;> decide

/-! ### What a command makes of its timer -/

/-- A change that leaves the timer as it is leaves the state as it is. -/
theorem updTimer_eq_self {s : State} {k : Fin 8} {f : Timer → Timer} (h : f (s.timer k) = s.timer k) :
    s.updTimer k f = s := by
  rw [State.updTimer, h, State.timer, Fin.getElem_fin, Vector.set_getElem_self]

/-- R126: the setting is written; the count is the reload's for a STOPPED timer, and is kept for a RUNNING one. -/
theorem Timer.withSetting_eq (x : Timer) (clock : Clock) (mode : TimerMode) (route : Bool) (reload : BitVec 16) :
    x.withSetting clock mode route reload =
      { x with
        clock := clock, mode := mode, route := route, reload := reload
        count := if x.state = .stopped then reload else x.count } := by
  cases h : x.state <;> simp [Timer.withSetting, h]

/-- R128: a RUNNING timer is as it was. -/
theorem Timer.started_of_running {x : Timer} (h : x.state = .running) : x.started = x := by
  simp [Timer.started, h]

/-- R128: a STOPPED timer runs on from its count, or from its reload where its count is 0. -/
theorem updTimer_started_of_stopped {s : State} {k : Fin 8} (h : (s.timer k).state = .stopped) :
    s.updTimer k Timer.started =
      s.updTimer k fun x => { x with state := .running, count := if x.count = 0 then x.reload else x.count } := by
  simp [State.updTimer, Timer.started, h]

/-- R129: a timer that is STOPPED already is as it was. -/
theorem Timer.stopped_of_stopped {x : Timer} (h : x.state = .stopped) : { x with state := .stopped } = x := by
  rw [← h]

/-! ### SET TIMER (R126) -/

theorem setTimer_outOfRange {s : State} {words : List Word} (h : 7 < bits (wordAt words 2) 0 8) :
    s.setTimer words = s.report .outOfRange [] := by
  rw [State.setTimer, timerOf_eq_none h]

theorem setTimer_badField {s : State} {words : List Word} {k : Fin 8} (hk : bits (wordAt words 2) 0 8 = k.val)
    (h : 2 ≤ bits (wordAt words 2) 8 2 ∨ 2 ≤ bits (wordAt words 2) 12 2 ∨ 65535 < (wordAt words 3).toNat) :
    s.setTimer words = s.report .badField [] := by
  simp only [State.setTimer, timerOf_eq_some hk]
  split
  · next hclock hmode =>
    obtain hbad | hbad | hbad := h
    · simp [clockOfCode_eq_none hbad] at hclock
    · simp [modeOfCode_eq_none hbad] at hmode
    · rw [if_pos hbad]
  · rfl

theorem setTimer_of_fields {s : State} {words : List Word} {k : Fin 8} {clock : Clock} {mode : TimerMode}
    (hk : bits (wordAt words 2) 0 8 = k.val) (hclock : bits (wordAt words 2) 8 2 = clock.code)
    (hmode : bits (wordAt words 2) 12 2 = mode.code) (hreload : (wordAt words 3).toNat ≤ 65535) :
    s.setTimer words =
      if (s.timer k).binder.isSome then s.report .inUse []
      else
        (s.updTimer k fun x =>
          x.withSetting clock mode (bit (wordAt words 2) 16) (BitVec.ofNat 16 (wordAt words 3).toNat)).report
            .ok [] := by
  simp only [State.setTimer, timerOf_eq_some hk, hclock, hmode, clockOfCode_code, modeOfCode_code,
    Nat.not_lt.mpr hreload, if_false]

/-! ### PRESET TIMER, RUN TIMER and STOP TIMER (R127 to R129) -/

theorem presetTimer_outOfRange {s : State} {words : List Word} (h : 7 < bits (wordAt words 2) 0 8) :
    s.presetTimer words = s.report .outOfRange [] := by
  rw [State.presetTimer, timerOf_eq_none h]

theorem runTimer_outOfRange {s : State} {words : List Word} (h : 7 < bits (wordAt words 2) 0 8) :
    s.runTimer words = s.report .outOfRange [] := by
  rw [State.runTimer, timerOf_eq_none h]

theorem stopTimer_outOfRange {s : State} {words : List Word} (h : 7 < bits (wordAt words 2) 0 8) :
    s.stopTimer words = s.report .outOfRange [] := by
  rw [State.stopTimer, timerOf_eq_none h]

section
variable {s : State} {words : List Word} {k : Fin 8} (hk : bits (wordAt words 2) 0 8 = k.val)
include hk

theorem presetTimer_of_number :
    s.presetTimer words =
      if (s.timer k).binder.isSome then s.report .inUse []
      else if (s.timer k).reload = 0 then s.report .notDefined []
      else (s.updTimer k fun x => { x with count := x.reload }).report .ok [] := by
  rw [State.presetTimer, timerOf_eq_some hk]

theorem runTimer_of_number :
    s.runTimer words =
      if (s.timer k).binder.isSome then s.report .inUse []
      else if (s.timer k).reload = 0 then s.report .notDefined []
      else (s.updTimer k Timer.started).report .ok [] := by
  rw [State.runTimer, timerOf_eq_some hk]

theorem stopTimer_of_number :
    s.stopTimer words =
      if (s.timer k).binder.isSome then s.report .inUse []
      else (s.updTimer k fun x => { x with state := .stopped }).report .ok [] := by
  rw [State.stopTimer, timerOf_eq_some hk]

end

/-! ### READ TIMER (R130) -/

theorem readTimer_outOfRange {s : State} {words : List Word} (h : 7 < bits (wordAt words 2) 0 8) :
    s.readTimer words = s.report .outOfRange [] := by
  rw [State.readTimer, timerOf_eq_none h]

theorem readTimer_of_number {s : State} {words : List Word} {k : Fin 8} (hk : bits (wordAt words 2) 0 8 = k.val) :
    s.readTimer words = s.report .ok (s.timerWords k) := by
  rw [State.readTimer, timerOf_eq_some hk]

/-- A value that its field holds is placed whole. -/
theorem fieldAt_of_lt {lo len v : Nat} (h : v < 2 ^ len) : fieldAt lo len v = v * 2 ^ lo := by
  rw [fieldAt, Nat.mod_eq_of_lt h]

/-- 12.7: the two result words, each field at its place: none is wider than its field. -/
theorem timerWords_eq (s : State) (k : Fin 8) :
    s.timerWords k =
      [ BitVec.ofNat 32 ((s.timer k).reload.toNat + 0x10000 * (s.timer k).count.toNat),
        BitVec.ofNat 32
          ((s.timer k).state.code + 2 * (s.timer k).clock.code + 4 * (s.timer k).mode.code
            + (if (s.timer k).route = true then 8 else 0) + (if k = 0 ∧ s.beatOut = true then 16 else 0)
            + 256 * questCode (s.timer k).binder) ] := by
  have hbeat : flagAt 4 (k == 0 && s.beatOut) = if k = 0 ∧ s.beatOut = true then 16 else 0 := by
    simp [flagAt]
  have hroute : flagAt 3 (s.timer k).route = if (s.timer k).route = true then 8 else 0 := rfl
  simp only [State.timerWords, hbeat, hroute, fieldAt_of_lt (BitVec.isLt _), fieldAt_of_lt (TimerState.code_lt _),
    fieldAt_of_lt (Clock.code_lt _), fieldAt_of_lt (TimerMode.code_lt _), fieldAt_of_lt (questCode_lt _)]
  congr 3 <;> omega

/-- Settles O23: SET TIMER by its checks in their order and the setting written; READ TIMER by its two words. -/
theorem setAndReadTimer : Obligations.SetAndReadTimer := by
  refine ⟨rfl, rfl, rfl, rfl, rfl, rfl, rfl, rfl, ?set, ?read⟩
  case set =>
    intro s words hands hsettled
    rw [exec_setTimer_of_hands hands hsettled]
    refine ⟨fun hnum => by rw [setTimer_outOfRange hnum]; rfl, fun k hk => ⟨fun hbad => ?_, ?_⟩⟩
    · rw [setTimer_badField hk hbad]
      rfl
    · intro clock mode hclock hmode hreload
      rw [setTimer_of_fields hk hclock hmode hreload]
      refine ⟨fun hbound => ?_, fun hfree => ?_⟩
      · rw [if_pos (Option.isSome_iff_ne_none.mpr hbound)]
        rfl
      · rw [if_neg (by simp [hfree])]
        simp only [Timer.withSetting_eq]
        rfl
  case read =>
    intro s words hands hsettled
    rw [exec_readTimer_of_hands hands hsettled]
    refine ⟨fun hnum => by rw [readTimer_outOfRange hnum]; rfl, fun k hk => ?_⟩
    rw [readTimer_of_number hk, timerWords_eq]
    rfl

/-- Settles O24: each command by its checks in their order and, where it passes, by what it makes of its timer. -/
theorem presetRunAndStopTimer : Obligations.PresetRunAndStopTimer := by
  refine ⟨rfl, ?preset, rfl, ?run, rfl, ?stop⟩
  case preset =>
    intro s words hands hsettled
    rw [exec_presetTimer_of_hands hands hsettled]
    refine ⟨fun hnum => by rw [presetTimer_outOfRange hnum]; rfl, fun k hk => ?_⟩
    rw [presetTimer_of_number hk]
    refine ⟨fun hbound => ?_, fun hfree hunset => ?_, fun hfree hset => ?_⟩
    · rw [if_pos (Option.isSome_iff_ne_none.mpr hbound)]
      rfl
    · rw [if_neg (by simp [hfree]), if_pos hunset]
      rfl
    · rw [if_neg (by simp [hfree]), if_neg hset]
      rfl
  case run =>
    intro s words hands hsettled
    rw [exec_runTimer_of_hands hands hsettled]
    refine ⟨fun hnum => by rw [runTimer_outOfRange hnum]; rfl, fun k hk => ?_⟩
    rw [runTimer_of_number hk]
    refine ⟨fun hbound => ?_, fun hfree hunset => ?_, fun hfree hset => ?_⟩
    · rw [if_pos (Option.isSome_iff_ne_none.mpr hbound)]
      rfl
    · rw [if_neg (by simp [hfree]), if_pos hunset]
      rfl
    · rw [if_neg (by simp [hfree]), if_neg hset]
      refine ⟨fun hrunning => ?_, fun hstopped => ?_⟩
      · rw [updTimer_eq_self (Timer.started_of_running hrunning)]
        rfl
      · rw [updTimer_started_of_stopped hstopped]
        rfl
  case stop =>
    intro s words hands hsettled
    rw [exec_stopTimer_of_hands hands hsettled]
    refine ⟨fun hnum => by rw [stopTimer_outOfRange hnum]; rfl, fun k hk => ?_⟩
    rw [stopTimer_of_number hk]
    refine ⟨fun hbound => ?_, fun hfree => ?_⟩
    · rw [if_pos (Option.isSome_iff_ne_none.mpr hbound)]
      rfl
    · rw [if_neg (by simp [hfree])]
      refine ⟨fun hstopped => ?_, fun _ => rfl⟩
      rw [updTimer_eq_self (Timer.stopped_of_stopped hstopped)]
      rfl

end Sys2Proof.Machine
end

section
/-! PROOFS. SET REGION and CLEAR REGION (R134, R136, R157, R159): the occasion, the codes and the two groups of checks,
each said once; the entry that a SET REGION gives, by its checks in their order; then the obligation. -/

namespace Sys2Proof.Machine

open Sys2Proof

/-! ### The commands handed over (R179) -/

theorem exec_setRegion_of_hands {s : State} {words : List Word} (h : s.hands 0x40 words) :
    exec .setRegion s = .next (s.setRegion words).react := by
  change execSetRegion s = _
  simp [execSetRegion, handed_of_hands h, done_eq]

theorem exec_clearRegion_of_hands {s : State} {words : List Word} (h : s.hands 0x41 words) :
    exec .clearRegion s = .next (s.clearRegion words).react := by
  change execClearRegion s = _
  simp [execClearRegion, handed_of_hands h, done_eq]

/-! ### The entry that word 2 names, and the stride codes (12.3, 12.7) -/

theorem regionNumber_eq_none {n : Nat} (h : 15 < n) : regionNumber n = none := by
  rw [regionNumber, dif_neg (by omega)]

@[simp] theorem regionNumber_val (n : Fin 16) : regionNumber n.val = some n := by
  simp [regionNumber]

/-- The strides in the order of their codes (12.3). -/
theorem strideOfCode_eq_getElem? (n : Nat) :
    strideOfCode n = ([.b16, .b32, .b64, .b128] : List TileStride)[n]? := by
  match n with
  | 0 | 1 | 2 | 3 => rfl
  | _ + 4 => rfl

theorem strideOfCode_eq_none {n : Nat} (h : 4 ≤ n) : strideOfCode n = none := by
  rw [strideOfCode_eq_getElem?, List.getElem?_eq_none_iff]
  exact h

/-! ### The checks of base and limit (R157) and of the fog fields (R136) -/

/-- R157: bounds on lines of 64 bytes, not empty, within the installed memory and wholly on one side of the page. -/
theorem boundsAccepted_iff (s : State) (base limit : Nat) :
    s.boundsAccepted base limit = true ↔
      base % 64 = 0 ∧ limit % 64 = 0 ∧ base < limit ∧ limit ≤ s.installed
        ∧ (limit ≤ s.pageBase ∨ s.pageBase + 0x1000 ≤ base) := by
  have hpage : Config.pageSize = 0x1000 := rfl
  simp only [State.boundsAccepted, hpage, Bool.and_eq_true, Bool.not_eq_true', Bool.and_eq_false_iff, beq_iff_eq,
    decide_eq_true_eq, decide_eq_false_iff_not, Nat.not_lt, and_assoc]
  tauto

/-- R136: the first tile, the size in whole tiles, and the last tile, which is one less than the tiles' end. -/
theorem fogAccepted_iff (stride : TileStride) (first base limit : Nat) :
    fogAccepted stride first base limit = true ↔
      first ≤ 127 ∧ (limit - base) % stride.bytes = 0 ∧ first + (limit - base) / stride.bytes ≤ 128 := by
  have hlast : ∀ tiles, first + tiles - 1 ≤ 127 ↔ first + tiles ≤ 128 := by omega
  simp only [fogAccepted, Bool.and_eq_true, beq_iff_eq, decide_eq_true_eq, hlast, and_assoc]

/-! ### The entry that a SET REGION gives -/

theorem regionOf_eq_none {s : State} {words : List Word}
    (h : 31 < bits (wordAt words 2) 8 8
      ∨ s.boundsAccepted (wordAt words 3).toNat (wordAt words 4).toNat = false) :
    s.regionOf words = none := by
  simp only [State.regionOf]
  exact if_pos h

theorem regionOf_badStride {s : State} {words : List Word} (hfog : bit (wordAt words 2) 16 = true)
    (h : 4 ≤ bits (wordAt words 2) 20 3) : s.regionOf words = none := by
  simp [State.regionOf, hfog, strideOfCode_eq_none h]

section
variable {s : State} {words : List Word} (hrights : bits (wordAt words 2) 8 8 ≤ 31)
  (hbounds : s.boundsAccepted (wordAt words 3).toNat (wordAt words 4).toNat = true)
include hrights hbounds

/-- R134: without the flag the fog fields take their cleared values, whatever the command's say. -/
theorem regionOf_unfogged (hfog : bit (wordAt words 2) 16 = false) :
    s.regionOf words =
      some
        { Region.cleared with
          enabled := true, base := (wordAt words 3).toNat, limit := (wordAt words 4).toNat
          rights := rightsOfWord (wordAt words 2) } := by
  simp [State.regionOf, Nat.not_lt.mpr hrights, hbounds, hfog, Region.cleared]

theorem regionOf_fogged {stride : TileStride} (hfog : bit (wordAt words 2) 16 = true)
    (hstride : strideOfCode (bits (wordAt words 2) 20 3) = some stride) :
    s.regionOf words =
      if fogAccepted stride (bits (wordAt words 2) 24 8) (wordAt words 3).toNat (wordAt words 4).toNat then
        some
          { enabled := true, base := (wordAt words 3).toNat, limit := (wordAt words 4).toNat
            rights := rightsOfWord (wordAt words 2), fog := true, stride := stride
            firstTile := bits (wordAt words 2) 24 8, fogWord := wordAt words 5 }
      else none := by
  simp [State.regionOf, Nat.not_lt.mpr hrights, hbounds, hfog, hstride]

end

/-! ### SET REGION (R157) and CLEAR REGION (R159) -/

theorem setRegion_outOfRange {s : State} {words : List Word} (h : 15 < bits (wordAt words 2) 0 8) :
    s.setRegion words = s.report .outOfRange [] := by
  rw [State.setRegion, regionNumber_eq_none h]

theorem clearRegion_outOfRange {s : State} {words : List Word} (h : 15 < bits (wordAt words 2) 0 8) :
    s.clearRegion words = s.report .outOfRange [] := by
  rw [State.clearRegion, regionNumber_eq_none h]

section
variable {s : State} {words : List Word} {n : Fin 16} (hn : bits (wordAt words 2) 0 8 = n.val)
include hn

theorem setRegion_badField (h : s.regionOf words = none) : s.setRegion words = s.report .badField [] := by
  simp only [State.setRegion, hn, regionNumber_val, h]

theorem setRegion_of_entry {r : Region} (h : s.regionOf words = some r) : s.setRegion words = s.holdRegion n r := by
  simp only [State.setRegion, hn, regionNumber_val, h]

theorem clearRegion_of_number : s.clearRegion words = s.holdRegion n Region.cleared := by
  simp only [State.clearRegion, hn, regionNumber_val]

end

/-- Settles O43: the codes, then each command by its checks in their order and the entry that it holds as pending. -/
theorem regionCommandsHoldAPendingChange : Obligations.RegionCommandsHoldAPendingChange := by
  refine ⟨rfl, rfl, strideOfCode_eq_getElem?, rfl, ?set, ?clear⟩
  case set =>
    intro s words base limit hands hbase hlimit
    subst hbase hlimit
    rw [exec_setRegion_of_hands hands]
    refine ⟨fun hnum => by rw [setRegion_outOfRange hnum]; rfl, fun n rights good hn hrights hgood => ?_⟩
    subst hrights
    rw [← boundsAccepted_iff] at hgood
    refine ⟨fun hbad => ?_, fun hok hfog => ?_, fun hok hfog => ?_⟩
    · have hrefused : 31 < bits (wordAt words 2) 8 8
          ∨ s.boundsAccepted (wordAt words 3).toNat (wordAt words 4).toNat = false := by
        rwa [hgood, not_and_or, Nat.not_le, Bool.not_eq_true] at hbad
      rw [setRegion_badField hn (regionOf_eq_none hrefused)]
      rfl
    · obtain ⟨hrights, hbounds⟩ := hgood.mp hok
      rw [setRegion_of_entry hn (regionOf_unfogged hrights hbounds hfog)]
      rfl
    · obtain ⟨hrights, hbounds⟩ := hgood.mp hok
      refine ⟨fun hcode => ?_, fun stride first hstride hfirst => ?_⟩
      · rw [setRegion_badField hn (regionOf_badStride hfog hcode)]
        rfl
      · subst hfirst
        have hentry := regionOf_fogged hrights hbounds hfog hstride
        refine ⟨fun hbad => ?_, fun hfirst hsize hlast => ?_⟩
        · rw [if_neg (by rw [fogAccepted_iff]; omega)] at hentry
          rw [setRegion_badField hn hentry]
          rfl
        · rw [if_pos ((fogAccepted_iff ..).mpr ⟨hfirst, hsize, hlast⟩)] at hentry
          rw [setRegion_of_entry hn hentry]
          rfl
  case clear =>
    intro s words hands
    rw [exec_clearRegion_of_hands hands]
    refine ⟨fun hnum => by rw [clearRegion_outOfRange hnum]; rfl, fun n hn => ?_⟩
    rw [clearRegion_of_number hn]
    rfl

end Sys2Proof.Machine
end

section
/-! PROOFS. The processor writes that the control-page unit drops (R164, R165): the access of the grant in progress, the
words whose writes are dropped, then DROPPED_CONTROL_WRITE, then the obligation. -/

namespace Sys2Proof.Machine

open Sys2Proof

/-- R147: the granted access is the one outstanding at the port of the master that holds the grant. -/
theorem grantedAccess_of_servesPermitted {s : State} {m : Master} {a : Access} (h : s.servesPermitted m a) :
    s.grantedAccess = some (m, a) := by
  obtain ⟨hgrant, haccess, -⟩ := h
  simp [State.grantedAccess, hgrant, haccess]

/-- R165: the four words whose processor writes are dropped. The cause word, which is tested before them and whose writes
are not dropped, lies at the page's base, below all four. -/
theorem interception_dropped (s : State) (n : Nat) :
    s.interception .proc n = .dropped ↔
      n = s.pageBase + 0x008 ∨ n = s.pageBase + 0x024 ∨ n = s.pageBase + 0x028 ∨ n = s.pageBase + 0x030 := by
  simp only [State.interception]
  split
  next hcause =>
    have hbase : n = s.pageBase := hcause
    simp [hbase]
  next =>
    split
    next hword => exact iff_of_true rfl hword
    next hword => exact iff_of_false nofun hword

/-- R165: a permitted write that is dropped ends its master's grant, and the port keeps the data last returned. -/
theorem exec_droppedControlWrite_of_dropped {s : State} {m : Master} {a : Access} (h : s.servesPermitted m a)
    (hdir : a.dir = .write) (hdrop : s.interception m (wordAddrOf a) = .dropped) :
    exec .droppedControlWrite s = .next (s.endMasterGrant m (s.port m).data).react := by
  have hgranted := grantedAccess_of_servesPermitted h
  obtain ⟨-, -, hpermitted⟩ := h
  change execDroppedControlWrite s = _
  simp [execDroppedControlWrite, hgranted, hdir, hpermitted, hdrop, done_eq]

/-- Settles O14: at each of the four words the write is dropped, and the end of the processor's grant changes the port
and the arbiter's record alone. -/
theorem writesToPartOwnedWordsAreDropped : Obligations.WritesToPartOwnedWordsAreDropped := by
  intro s a hserves hdir hword
  have hdrop : s.interception .proc (wordAddrOf a) = .dropped := (interception_dropped s _).mpr hword
  rw [exec_droppedControlWrite_of_dropped hserves hdir hdrop]
  rfl

end Sys2Proof.Machine
end

section
/-! PROOFS. The two index words that the host writes (R168, R175, R190): the control-page unit's take of each word, the
comparison of the command unit (R176), the decision of each owner by its cases, then the obligation. -/

namespace Sys2Proof.Machine

open Sys2Proof

/-! ### The write that the control-page unit takes next -/

theorem nextPageWrite_of_next {s : State} {e : SnoopWrite} {off : Nat} (hnext : s.nextFor .page = some (.write e))
    (haddr : e.addr = s.pageBase + off) : s.nextPageWrite off = some e := by
  simp [State.nextPageWrite, State.pageAddr, hnext, haddr]

/-! ### The image, and the value handed on to its owner (R168)

`u` is the state with the write taken into the image: the power-on zero write ends there, and every other write hands
the whole image to its owner. -/

section
variable {s u : State} {e : SnoopWrite} {image : Word} (hnext : s.nextFor .page = some (.write e))
include hnext

theorem exec_commandProduceIndex_of_next (haddr : e.addr = s.pageBase + produceOff)
    (himage : image = mergeLanes e.lanes s.page.produceImage e.data)
    (hu : u = { s.takeFor .page with page := { s.page with produceImage := image } }) :
    exec .commandProduceIndex s = .next (if e.atPowerOn then u else u.decideProduce image).react := by
  subst hu himage
  change execCommandProduceIndex s = _
  simp only [execCommandProduceIndex, nextPageWrite_of_next hnext haddr, done_eq]
  rfl

theorem exec_noticeConsumeIndex_of_next (haddr : e.addr = s.pageBase + noticeConsumeOff)
    (himage : image = mergeLanes e.lanes s.page.consumeImage e.data)
    (hu : u = { s.takeFor .page with page := { s.page with consumeImage := image } }) :
    exec .noticeConsumeIndex s = .next (if e.atPowerOn then u else u.decideConsume image).react := by
  subst hu himage
  change execNoticeConsumeIndex s = _
  simp only [execNoticeConsumeIndex, nextPageWrite_of_next hnext haddr, done_eq]
  rfl

end

/-! ### The comparison of the two indexes (R176) -/

theorem compareIndexes_of_eq {s : State} (heq : s.consumeIndex = s.page.produce) :
    s.compareIndexes = { s with cmd := .idle } := by
  rw [State.compareIndexes, if_pos heq]

theorem compareIndexes_of_ne {s : State} (hne : s.consumeIndex ≠ s.page.produce) :
    s.compareIndexes = { s with cmd := .fetching [] } := by
  rw [State.compareIndexes, if_neg hne]

/-! ### The command unit's decision on a produce value (R175) -/

theorem decideProduce_refused {s : State} {v : Word} (h : 32 ≤ v.toNat) :
    s.decideProduce v = s.raise causeRingFault := by
  rw [State.decideProduce, if_neg (Nat.not_lt.mpr h)]

section
variable {s : State} {v : Word} (h : v.toNat < 32)
include h

/-- An accepted value is compared by an IDLE command unit alone. -/
theorem decideProduce_of_idle (hcmd : s.cmd = .idle) :
    s.decideProduce v = State.compareIndexes { s with page := { s.page with produce := v.toNat } } := by
  simp only [State.decideProduce, if_pos h, hcmd]

theorem decideProduce_of_busy (hcmd : s.cmd ≠ .idle) :
    s.decideProduce v = { s with page := { s.page with produce := v.toNat } } := by
  simp only [State.decideProduce, if_pos h]
  split
  case h_1 hidle => exact absurd hidle hcmd
  all_goals rfl

theorem decideProduce_without_fetch (hcmd : s.cmd ≠ .idle ∨ v.toNat = s.consumeIndex) :
    s.decideProduce v = { s with page := { s.page with produce := v.toNat } } := by
  by_cases hidle : s.cmd = .idle
  · have heq : v.toNat = s.consumeIndex := hcmd.resolve_left (not_not_intro hidle)
    rw [decideProduce_of_idle h hidle, compareIndexes_of_eq heq.symm, ← hidle]
  · exact decideProduce_of_busy h hidle

theorem decideProduce_with_fetch (hcmd : s.cmd = .idle) (hne : v.toNat ≠ s.consumeIndex) :
    s.decideProduce v = { s with page := { s.page with produce := v.toNat }, cmd := .fetching [] } := by
  rw [decideProduce_of_idle h hcmd, compareIndexes_of_ne hne.symm]

end

/-! ### The notice writer's decision on a consume value (R190) -/

theorem decideConsume_refused {s : State} {v : Word} (h : s.notice.ringSet = false ∨ s.notice.size ≤ v.toNat) :
    s.decideConsume v = s.raise causeRingFault := by
  have hrefused : ¬(s.notice.ringSet && decide (v.toNat < s.notice.size)) = true := by
    rwa [Bool.and_eq_true, decide_eq_true_eq, not_and_or, Bool.not_eq_true, Nat.not_lt]
  rw [State.decideConsume, if_neg hrefused]

theorem decideConsume_accepted {s : State} {v : Word} (hset : s.notice.ringSet = true)
    (hsize : v.toNat < s.notice.size) :
    s.decideConsume v = State.examineRing { s with page := { s.page with consume := v.toNat } } := by
  rw [State.decideConsume, if_pos (by rw [hset, decide_eq_true hsize]; rfl)]

/-- Settles O20: each index word by its image, then by the decision of its owner. -/
theorem hostIndexesAreAcceptedOrRefused : Obligations.HostIndexesAreAcceptedOrRefused := by
  refine ⟨?produce, ?consume⟩
  case produce =>
    intro s e image u hnext haddr himage hu
    have hcmd : u.cmd = s.cmd := by rw [hu, takeFor_cmd]
    have hindex : u.consumeIndex = s.consumeIndex := by rw [hu, takeFor_consumeIndex]
    rw [exec_commandProduceIndex_of_next hnext haddr himage hu, ← hcmd, ← hindex]
    refine ⟨fun hzero => by rw [if_pos hzero], fun hhost hbad => ?_,
      fun hhost hgood => ⟨fun hkeep => ?_, fun hidle hne => ?_⟩⟩
    · rw [hhost, if_neg Bool.false_ne_true, decideProduce_refused hbad]
    · rw [hhost, if_neg Bool.false_ne_true, decideProduce_without_fetch hgood hkeep]
    · rw [hhost, if_neg Bool.false_ne_true, decideProduce_with_fetch hgood hidle hne]
  case consume =>
    intro s e image u hnext haddr himage hu
    have hnotice : u.notice = s.notice := by rw [hu, takeFor_notice]
    rw [exec_noticeConsumeIndex_of_next hnext haddr himage hu, ← hnotice]
    refine ⟨fun hzero => by rw [if_pos hzero], fun hhost hbad => ?_, fun hhost hset hsize => ?_⟩
    · rw [hhost, if_neg Bool.false_ne_true, decideConsume_refused hbad]
    · rw [hhost, if_neg Bool.false_ne_true, decideConsume_accepted hset hsize]

end Sys2Proof.Machine
end

section
/-! PROOFS. The fetch of a command block (R174, R177 to R179): the command table, the header checks by their cases, the
command unit's state that follows from them, then the obligation. -/

namespace Sys2Proof.Machine

open Sys2Proof

/-! ### The header checks (R178) -/

theorem requiredLength_eq_none {code : Nat}
    (h : code ∉ [0x10, 0x11, 0x12, 0x13, 0x14, 0x20, 0x21, 0x22, 0x23, 0x24, 0x25, 0x26, 0x27, 0x28, 0x30, 0x31, 0x32,
      0x33, 0x34, 0x40, 0x41, 0x50]) : requiredLength code = none := by
  unfold requiredLength
  split
  case h_23 => rfl
  all_goals exact absurd (by decide) h

theorem lengthReached_more {words : List Word} (h : words.length < lengthOf words / 4) :
    lengthReached words = .more := by
  rw [lengthReached, if_pos h]

theorem lengthReached_dispatch {words : List Word} (h : lengthOf words / 4 ≤ words.length) :
    lengthReached words = .dispatch := by
  rw [lengthReached, if_neg (Nat.not_lt.mpr h)]

theorem headerCheck_unknown {words : List Word} (h : requiredLength (codeOf words) = none) :
    headerCheck words = .refuse .badCode := by
  simp only [headerCheck, h]

section
variable {words : List Word} {n : Nat} (hcode : requiredLength (codeOf words) = some (.fixed n))
include hcode

theorem headerCheck_fixed_badLength (h : lengthOf words ≠ n) : headerCheck words = .refuse .badLength := by
  simp only [headerCheck, hcode, if_neg h]

theorem headerCheck_fixed_rightLength (h : lengthOf words = n) : headerCheck words = lengthReached words := by
  simp only [headerCheck, hcode, if_pos h]

end

section
variable {words : List Word} (hcode : requiredLength (codeOf words) = some .byCount)
include hcode

/-- The record count stands in word 2, so nothing is refused before it is read. -/
theorem headerCheck_byCount_short (h : words.length < 3) : headerCheck words = .more := by
  simp only [headerCheck, hcode, if_pos h]

theorem headerCheck_byCount_badCount (hread : 3 ≤ words.length)
    (h : bits (wordAt words 2) 16 8 = 0 ∨ 4 < bits (wordAt words 2) 16 8) :
    headerCheck words = .refuse .badField := by
  simp only [headerCheck, hcode, if_neg (Nat.not_lt.mpr hread), if_pos h]

theorem headerCheck_byCount_goodCount (hread : 3 ≤ words.length) (hlow : 1 ≤ bits (wordAt words 2) 16 8)
    (hhigh : bits (wordAt words 2) 16 8 ≤ 4) :
    headerCheck words =
      if lengthOf words = 12 + 12 * bits (wordAt words 2) 16 8 then lengthReached words else .refuse .badLength := by
  have hcount : ¬(bits (wordAt words 2) 16 8 = 0 ∨ 4 < bits (wordAt words 2) 16 8) := by omega
  simp only [headerCheck, hcode, if_neg (Nat.not_lt.mpr hread), if_neg hcount]

end

/-! ### What follows from the checks (R177 to R179) -/

/-- The command unit's state after a word of a block, by the result of the header checks. -/
def HeaderCheck.nextCmd (words : List Word) : HeaderCheck → CmdState
  | .refuse st => .reporting st 3 []
  | .more => .fetching words
  | .dispatch => .dispatched words false

@[simp] theorem HeaderCheck.nextCmd_refuse (words : List Word) (st : Status) :
    HeaderCheck.nextCmd words (.refuse st) = .reporting st 3 [] := rfl

@[simp] theorem HeaderCheck.nextCmd_more (words : List Word) : HeaderCheck.nextCmd words .more = .fetching words := rfl

@[simp] theorem HeaderCheck.nextCmd_dispatch (words : List Word) :
    HeaderCheck.nextCmd words .dispatch = .dispatched words false := rfl

theorem fetched_eq (s : State) (words : List Word) :
    s.fetched words = { s with cmd := (headerCheck words).nextCmd words } := by
  unfold State.fetched
  cases headerCheck words <;> rfl

/-- R177: the word read is the next one of the slot that the consume index names, and the read's grant ends. -/
theorem exec_commandFetchRead_of_fetching {s : State} {words : List Word} (hport : s.mpa.port = some (.ir .fetchRead))
    (hcmd : s.cmd = .fetching words) :
    exec .commandFetchRead s =
      .next (s.endIRGrant.fetched (words ++ [readWord s.mem (s.slotAddr words.length)])).react := by
  change execCommandFetchRead s = _
  simp [execCommandFetchRead, hport, hcmd, done_eq]

/-- Settles O48: the command table, then the state that a fetch leaves, by the header checks in their order. -/
theorem fetchReadsAndChecksTheBlock : Obligations.FetchReadsAndChecksTheBlock := by
  refine ⟨by decide, rfl, rfl, fun code => requiredLength_eq_none, ?fetch⟩
  intro s words block hport hcmd hblock
  refine ⟨(headerCheck block).nextCmd block, ?exec, fun hcode => ?unknown, fun n hcode => ?fixed,
    fun hcode count hcount => ?byCount⟩
  case exec =>
    rw [exec_commandFetchRead_of_fetching hport hcmd, fetched_eq, hblock]
    rfl
  case unknown => rw [headerCheck_unknown hcode, HeaderCheck.nextCmd_refuse]
  case fixed =>
    refine ⟨fun hbad => ?_, fun hlength => ?_⟩
    · rw [headerCheck_fixed_badLength hcode hbad, HeaderCheck.nextCmd_refuse]
    · rw [headerCheck_fixed_rightLength hcode hlength]
      subst hlength
      exact ⟨fun hmore => by rw [lengthReached_more hmore, HeaderCheck.nextCmd_more],
        fun hall => by rw [lengthReached_dispatch hall, HeaderCheck.nextCmd_dispatch]⟩
  case byCount =>
    subst hcount
    refine ⟨fun hshort => ?_, fun hread => ⟨fun hbad => ?_, fun hlow hhigh => ?_⟩⟩
    · rw [headerCheck_byCount_short hcode hshort, HeaderCheck.nextCmd_more]
    · rw [headerCheck_byCount_badCount hcode hread hbad, HeaderCheck.nextCmd_refuse]
    · rw [headerCheck_byCount_goodCount hcode hread hlow hhigh]
      refine ⟨fun hbad => ?_, fun hlength => ?_⟩
      · rw [if_neg hbad, HeaderCheck.nextCmd_refuse]
      · rw [if_pos hlength]
        have hwords : lengthOf block / 4 = 3 + 3 * bits (wordAt block 2) 16 8 := by omega
        exact ⟨fun hmore => by rw [lengthReached_more (by omega), HeaderCheck.nextCmd_more],
          fun hall => by rw [lengthReached_dispatch (by omega), HeaderCheck.nextCmd_dispatch]⟩

end Sys2Proof.Machine
end

section
/-! PROOFS. What a step can do, said once: `Effect` lists every effect that a command has before the reaction that ends the
step, each with its occasion; `exec_answers` shows that every command in every state has one of them or changes nothing. The
laws that every step keeps go through `KeptByEffects.step`. -/

namespace Sys2Proof.Machine

open Sys2Proof

/-! ### Occasions -/

theorem handed_eq_some_iff {s : State} {code : Nat} {words : List Word} :
    s.handed code = some words ↔ s.hands code words := by
  refine ⟨fun h => ?_, handed_of_hands⟩
  unfold State.handed at h
  split at h
  · next ws hcmd =>
    split at h
    · next hcode =>
      cases h
      exact ⟨hcmd, hcode⟩
    · cases h
  all_goals cases h

theorem engineHanded_eq_some_iff {s : State} {code : Nat} {words : List Word} :
    s.engineHanded code = some words ↔ s.handsEngine code words := by
  refine ⟨fun h => ?_, engineHanded_of_handsEngine⟩
  unfold State.engineHanded at h
  split at h
  · cases h
  · next hwork => exact ⟨handed_eq_some_iff.mp h, by simpa using hwork⟩

theorem cmd_of_hands {s : State} {code : Nat} {words : List Word} (h : s.hands code words) :
    s.cmd = .dispatched words false := h.1

theorem cmd_of_handsEngine {s : State} {code : Nat} {words : List Word} (h : s.handsEngine code words) :
    s.cmd = .dispatched words false := cmd_of_hands h.1

theorem grantedAccess_eq_some_iff {s : State} {m : Master} {a : Access} :
    s.grantedAccess = some (m, a) ↔ s.mpa.port = some (.master m) ∧ (s.port m).access = some a := by
  unfold State.grantedAccess
  split
  · next n hport =>
    rw [hport]
    constructor
    · intro h
      obtain ⟨b, haccess, hpair⟩ := Option.map_eq_some_iff.mp h
      cases hpair
      exact ⟨rfl, haccess⟩
    · rintro ⟨hmaster, haccess⟩
      cases hmaster
      simp [haccess]
  all_goals simp_all

theorem nextPageWrite_eq_some_iff {s : State} {off : Nat} {e : SnoopWrite} :
    s.nextPageWrite off = some e ↔ s.nextFor .page = some (.write e) ∧ e.addr = s.pageAddr off := by
  unfold State.nextPageWrite
  split
  · next d hnext =>
    split
    · next haddr => simp_all; grind
    · next haddr => simp_all; grind
  all_goals simp_all

/-- The step that makes an access of the internal requester. -/
def IRAccess.step : IRAccess → Instr
  | .effectRmw => .effectGrant
  | .syncRead => .syncReadComplete
  | .faultWrite => .faultWordWrite
  | .causeWrite => .causeWordPublish
  | .vectorWrite => .vectorWordPublish
  | .resetWrite => .warmResetCauseWrite
  | .elementWrite => .noticeElementWrite
  | .produceWrite => .noticeProduceWrite
  | .ringIndexWrite => .noticeRingIndexWrite
  | .fetchRead => .commandFetchRead
  | .resultWrite => .resultWordWrite
  | .statusWrite => .statusWordWrite
  | .consumeWrite => .consumeIndexWrite

/-- The accesses that a warm reset withdraws from their blocks (R162; log 19). -/
def IRAccess.withdrawn : IRAccess → Bool
  | .syncRead | .produceWrite | .ringIndexWrite => false
  | .effectRmw | .faultWrite | .causeWrite | .vectorWrite | .resetWrite | .elementWrite | .fetchRead | .resultWrite
  | .statusWrite | .consumeWrite => true

/-! ### The effects of the commands -/

/-- Every effect that a command has before the reaction, with its occasion. -/
inductive Effect (s : State) : Instr → State → Prop
  | zeroWrite (h : s.zeroWriteReady = true) : Effect s .powerOnZeroWrite s.zeroWrite
  | warmReset (h : s.gameReset = false) : Effect s (.warmReset true) s.warmReset
  | request (m : Master) (a : Access) (h : (s.port m).access = none) :
      Effect s (.masterRequest m a) (s.setPort m { s.port m with access := some a })
  | refuse (c : Instr) (m : Master) (a : Access) (hc : c = .masterRead ∨ c = .masterWrite) 
      (hport : s.mpa.port = some (.master m)) (hacc : (s.port m).access = some a) (hno : s.permits m a = false) :
      Effect s c (s.refuseAccess m a)
  | read (m : Master) (a : Access) (h : s.servesPermitted m a) (hdir : a.dir = .read)
      (hfog : ¬(m = .scan ∧ s.fogCurrent = false)) :
      Effect s .masterRead (s.endMasterGrant m (s.readData m a))
  | store (m : Master) (a : Access) (h : s.servesPermitted m a) (hdir : a.dir = .write)
      (hpass : s.interception m (wordAddrOf a) = .passes) : Effect s .masterWrite (s.masterStore m a)
  | clear (a : Access) (h : s.servesPermitted .proc a) (hdir : a.dir = .write)
      (hclear : s.interception .proc (wordAddrOf a) = .clears) : Effect s .causeWordClear (s.clearCauses a)
  | drop (m : Master) (a : Access) (h : s.servesPermitted m a) (hdir : a.dir = .write)
      (hdrop : s.interception m (wordAddrOf a) = .dropped) :
      Effect s .droppedControlWrite (s.endMasterGrant m (s.port m).data)
  | takeWrite (e : SnoopWrite) (h : s.nextFor .watch = some (.write e)) :
      Effect s .watchTakeWrite ((s.takeFor .watch).takeWrite e).advanceWatchReset
  | takeReveal (e : SnoopWrite) (h : s.nextFor .fog = some (.write e)) :
      Effect s .revealCopyUpdate ((s.takeFor .fog).takeReveal e)
  | takeEnable (e : SnoopWrite) (h : s.nextFor .page = some (.write e)) (ha : e.addr = s.pageAddr enableOff) :
      Effect s .enableWordTaken ((s.takeFor .page).takeEnable e)
  | takeTurn (e : SnoopWrite) (h : s.nextFor .page = some (.write e)) (ha : e.addr = s.pageAddr turnOff) :
      Effect s .turnWordTaken ((s.takeFor .page).takeTurn e)
  | takeProduceIndex (e : SnoopWrite) (h : s.nextFor .page = some (.write e))
      (ha : e.addr = s.pageAddr produceOff) :
      Effect s .commandProduceIndex ((s.takeFor .page).takeProduceIndex e)
  | takeConsumeIndex (e : SnoopWrite) (h : s.nextFor .page = some (.write e))
      (ha : e.addr = s.pageAddr noticeConsumeOff) :
      Effect s .noticeConsumeIndex ((s.takeFor .page).takeConsumeIndex e)
  | beat (h : s.gameReset = false) : Effect s .beat (s.clockEvent .beat)
  | expiry (k : Fin 8) (h : s.nextExpiry = some k) : Effect s .timerExpiry (s.expire k)
  | completeSync (r : SyncRead) (hr : s.syncRead = some r) (hport : s.mpa.port = some (.ir .syncRead)) :
      Effect s .syncReadComplete (s.completeSync r).endIRGrant
  | takeSync (r : SyncRead) (word : Word) (hr : s.syncRead = some r) (hport : s.mpa.port ≠ some (.ir .syncRead))
      (h : s.nextFor .watch = some (.syncMark word)) :
      Effect s .syncReadComplete ((s.takeFor .watch).takeSync r word).advanceWatchReset
  | answer (c : Instr) (words : List Word) (st : Status) (rs : List Word) (h : s.cmd = .dispatched words false) :
      Effect s c (s.report st rs)
  | arm (c : Instr) (words : List Word) (w : Fin 64) (e : Watch) (hc : c = .armWatch ∨ c = .armBitWatch)
      (h : s.cmd = .dispatched words false) (hfree : (s.watch w).state = .free) (hsync : e.state = .syncing)
      (hlaw : e.lawful) : Effect s c ((s.updWatch w (fun _ => e)).takeCommand).issueSync
  | resync (words : List Word) (w : Fin 64) (h : s.hands 0x13 words) (harmed : (s.watch w).state = .armed) :
      Effect s .resyncWatch ((s.updWatch w (fun x => { x with state := .syncing })).takeCommand).issueSync
  | readWatch (words : List Word) (w : Fin 64) (h : s.hands 0x14 words) :
      Effect s .readWatch ((s.updWatch w (fun x => { x with missed := false })).report .ok (s.watch w).words)
  | timerAnswer (c : Instr) (words : List Word) (st : Status) (rs : List Word)
      (h : s.cmd = .dispatched words false) : Effect s c (s.settleTimers.report st rs)
  | timerSet (c : Instr) (words : List Word) (k : Fin 8) (f : Timer → Timer) (h : s.cmd = .dispatched words false)
      (hbinder : ∀ x, (f x).binder = x.binder) : Effect s c ((s.settleTimers.updTimer k f).report .ok [])
  | holdRegion (c : Instr) (words : List Word) (n : Fin 16) (r : Region) (hc : c = .setRegion ∨ c = .clearRegion)
      (h : s.cmd = .dispatched words false) : Effect s c (s.holdRegion n r)
  | installRing (words : List Word) (base size : Nat) (h : s.hands 0x50 words)
      (hok : s.ringAccepted base size = true) (hfree : s.ringFree = true) :
      Effect s .setNoticeRing (s.takeCommand.installRing base size)
  | holdRing (words : List Word) (base size : Nat) (h : s.hands 0x50 words)
      (hok : s.ringAccepted base size = true) (hbusy : s.ringFree = false) :
      Effect s .setNoticeRing
        { s.takeCommand with notice := { s.takeCommand.notice with pendingConfig := some (base, size) } }
  | disarm (words : List Word) (w : Fin 64) (h : s.handsEngine 0x12 words) (hdef : (s.watch w).state ≠ .free)
      (huse : s.watchInUse w = false) : Effect s .disarmWatch ((s.freeWatch w).report .ok [])
  | defineSteps (words : List Word) (recs : List StepRec) (h : s.handsEngine 0x20 words)
      (hparse : parseRecords parseStep words 0 (recordCountOf words) = .ok recs)
      (huse : (List.range (recordCountOf words)).any (fun i => s.stepInUse (firstIndexOf words + i)) = false) :
      Effect s .defineSteps (State.report { s with steps := writeRecords s.steps (firstIndexOf words) recs } .ok [])
  | defineEffects (words : List Word) (recs : List EffectRec) (h : s.handsEngine 0x21 words)
      (hparse : parseRecords parseEffect words 0 (recordCountOf words) = .ok recs)
      (huse : (List.range (recordCountOf words)).any (fun i => s.effectInUse (firstIndexOf words + i)) = false) :
      Effect s .defineEffects
        (State.report { s with effects := writeRecords s.effects (firstIndexOf words) recs } .ok [])
  | loadQuest (words : List Word) (q : Fin 32) (first count : Nat) (order : OrderMode) (owner : Owner) (tag : Word)
      (h : s.handsEngine 0x22 words) (hpos : 1 ≤ count) (hmax : count ≤ 16) (hfit : first + count ≤ 128)
      (hrest : (s.quest q).state.running = false) :
      Effect s .loadQuest ((s.updQuest q (fun _ => loadedQuest first count order owner tag)).report .ok [])
  | unloadQuest (words : List Word) (q : Fin 32) (h : s.handsEngine 0x27 words)
      (hrest : (s.quest q).state.running = false) :
      Effect s .unloadQuest ((s.updQuest q (fun _ => Quest.cleared)).report .ok [])
  | startQuest (words : List Word) (q : Fin 32) (h : s.handsEngine 0x23 words)
      (hdef : (s.quest q).state ≠ .vacant) (hrest : (s.quest q).state.running = false)
      (hvalid : s.validateQuest q = none) :
      Effect s .startQuest (State.runEngine (s.takeCommand.beginQuest (commandWork 0x23 s.turnPlayer) q 0))
  | holdQuest (words : List Word) (q : Fin 32) (h : s.handsEngine 0x24 words)
      (hactive : (s.quest q).state = .active) :
      Effect s .holdQuest ((s.updQuest q (fun c => { c with state := .held })).report .ok [])
  | resumeQuest (words : List Word) (q : Fin 32) (h : s.handsEngine 0x25 words)
      (hheld : (s.quest q).state = .held) :
      Effect s .resumeQuest
        ((s.takeCommand.updQuest q (fun c => { c with state := .active, late := false })).report .ok [])
  | resumeLate (words : List Word) (q : Fin 32) (h : s.handsEngine 0x25 words) (hheld : (s.quest q).state = .held) :
      Effect s .resumeQuest
        ((s.takeCommand.updQuest q (fun c => { c with state := .active, late := false })).beginWork
          (.command 0x25) 0 s.turnPlayer [] (.timeout q))
  | abandonQuest (words : List Word) (q : Fin 32) (h : s.handsEngine 0x26 words)
      (hrun : (s.quest q).state.running = true) :
      Effect s .abandonQuest
        (s.takeCommand.beginWork (.command 0x26) 0 s.turnPlayer [] (.fail (s.bottomOf 32 q) .abandoned none (some q)))
  | engineGoesOn (c : Instr) (h : s.engineReady = true) : Effect s c s.runEngine
  | takeWatchEntry (v : Fin 64) (writer : Writer) (depth : Nat) (rest : List Trigger) (hwork : s.work = none)
      (hqueue : s.queue = .watch v writer depth :: rest) :
      Effect s .watchTriggerTake (State.takeWatchEntry { s with queue := rest } v writer depth)
  | dropExpiry (k : Fin 8) (b : Option (Fin 32)) (rest : List Trigger) (hwork : s.work = none)
      (hqueue : s.queue = .expiry k b :: rest) : Effect s .expiryTriggerTake { s with queue := rest }
  | lateExpiry (k : Fin 8) (q : Fin 32) (rest : List Trigger) (hwork : s.work = none)
      (hqueue : s.queue = .expiry k (some q) :: rest) (hbound : (s.quest q).bound = some k)
      (hheld : (s.quest q).state = .held) :
      Effect s .expiryTriggerTake (State.updQuest { s with queue := rest } q (fun c => { c with late := true }))
  | timeoutExpiry (k : Fin 8) (q : Fin 32) (rest : List Trigger) (hwork : s.work = none)
      (hqueue : s.queue = .expiry k (some q) :: rest) (hbound : (s.quest q).bound = some k)
      (hactive : (s.quest q).state = .active) :
      Effect s .expiryTriggerTake
        (State.beginWork { s with queue := rest } (.expiry k) 0 s.turnPlayer [] (.timeout q))
  | grantEffect (j : EffectJob) (hport : s.mpa.port = some (.ir .effectRmw)) (hunit : s.effectUnit = .grantWait j)
      (hok : s.permitsEffect j.record.addr = true) : Effect s .effectGrant (s.endIRGrant.grantEffect j)
  | denyEffect (j : EffectJob) (hport : s.mpa.port = some (.ir .effectRmw)) (hunit : s.effectUnit = .grantWait j)
      (hno : s.permitsEffect j.record.addr = false) : Effect s .effectGrant (s.endIRGrant.denyEffect j)
  | effectSettled (old new : Word) (hunit : s.effectUnit = .settling old new) (htaken : s.effectStanding = false) :
      Effect s .effectSettled
        (State.effectReported { s.settleTimers with effectUnit := .idle } { status := .done, old := old, new := new })
  /- A grant of the internal requester ends with nothing written: what is left of a read, of a denied effect, or of an
  access that its block no longer makes. -/
  | endGrant (a : IRAccess) (h : s.mpa.port = some (.ir a) ∨ ∃ op, s.mpa.port = some (.orphan a op)) :
      Effect s a.step s.endIRGrant
  | orphanWrite (a : IRAccess) (n : Nat) (w : Word) (ha : a.withdrawn = true)
      (hport : s.mpa.port = some (.orphan a (.write n w))) : Effect s a.step (s.partWrite n w).endIRGrant
  | orphanEffect (a : IRAccess) (j : EffectJob) (ha : a.withdrawn = true)
      (hport : s.mpa.port = some (.orphan a (.effect j))) (hok : s.permitsEffect j.record.addr = true) :
      Effect s a.step (s.effectTransfer j).endIRGrant
  | faultWord (hport : s.mpa.port = some (.ir .faultWrite)) : Effect s .faultWordWrite s.endIRGrant.publishFault
  | causeWord (hport : s.mpa.port = some (.ir .causeWrite)) : Effect s .causeWordPublish s.endIRGrant.publishCauses
  | vectorWord (hport : s.mpa.port = some (.ir .vectorWrite)) :
      Effect s .vectorWordPublish s.endIRGrant.publishVector
  | resetCauseWord (hport : s.mpa.port = some (.ir .resetWrite)) (hpub : s.cause.publication = .resetCause) :
      Effect s .warmResetCauseWrite
        { s.endIRGrant.partWrite (s.pageAddr causeOff) 0 with
          cause := { s.cause with publication := .resetVector } }
  | resetVectorWord (hport : s.mpa.port = some (.ir .resetWrite)) (hpub : s.cause.publication = .resetVector) :
      Effect s .warmResetCauseWrite
        { s.endIRGrant.partWrite (s.pageAddr vectorOff) 0 with cause := { s.cause with publication := .idle } }
  | elementWord (k : Nat) (hport : s.mpa.port = some (.ir .elementWrite)) (hwriter : s.notice.writer = .writing k)
      (hk : k ≠ 7) :
      Effect s .noticeElementWrite
        { s.endIRGrant.partWrite (s.elementAddr k) (s.elementWord k) with
          notice := { s.notice with writer := .writing (k + 1) } }
  | lastElementWord (k : Nat) (hport : s.mpa.port = some (.ir .elementWrite))
      (hwriter : s.notice.writer = .writing k) (hk : k = 7) :
      Effect s .noticeElementWrite
        { s.endIRGrant.partWrite (s.elementAddr k) (s.elementWord k) with
          notice := { s.notice with writer := .publishing, produce := (s.notice.produce + 1) % s.notice.size } }
  | publishElement (hport : s.mpa.port = some (.ir .produceWrite)) :
      Effect s .noticeProduceWrite s.endIRGrant.publishElement
  | ringProduceWord (hport : s.mpa.port = some (.ir .ringIndexWrite)) (hfirst : s.notice.indexWrites = 2) :
      Effect s .noticeRingIndexWrite
        { s.endIRGrant.partWrite (s.pageAddr noticeProduceOff) 0 with notice := { s.notice with indexWrites := 1 } }
  | ringConsumeWord (hport : s.mpa.port = some (.ir .ringIndexWrite)) (hsecond : s.notice.indexWrites ≠ 2) :
      Effect s .noticeRingIndexWrite
        (State.writerFree
          { s.endIRGrant.partWrite (s.pageAddr noticeConsumeOff) 0 with
            notice := { s.notice with indexWrites := 0 } })
  | ringAnswered (words : List Word) (hport : s.mpa.port = some (.ir .ringIndexWrite))
      (hsecond : s.notice.indexWrites ≠ 2) (hcmd : s.cmd = .dispatched words true) (hcode : codeOf words = 0x50)
      (hpending : s.notice.pendingConfig = none) :
      Effect s .noticeRingIndexWrite
        (State.writerFree
          { s.endIRGrant.partWrite (s.pageAddr noticeConsumeOff) 0 with
            notice := { s.notice with indexWrites := 0 }, cmd := .reporting .ok 3 [] })
  | fetch (words : List Word) (hport : s.mpa.port = some (.ir .fetchRead)) (hcmd : s.cmd = .fetching words) :
      Effect s .commandFetchRead
        (s.endIRGrant.fetched (words ++ [readWord s.mem (s.slotAddr words.length)]))
  | resultWord (st : Status) (next : Nat) (r : Word) (rest : List Word) (hport : s.mpa.port = some (.ir .resultWrite))
      (hcmd : s.cmd = .reporting st next (r :: rest)) :
      Effect s .resultWordWrite
        { s.endIRGrant.partWrite (s.slotAddr next) r with cmd := .reporting st (next + 1) rest }
  | statusWord (st : Status) (next : Nat) (rs : List Word) (hport : s.mpa.port = some (.ir .statusWrite))
      (hcmd : s.cmd = .reporting st next rs) : Effect s .statusWordWrite (s.endIRGrant.writeStatus st)
  | consumeIndex (hport : s.mpa.port = some (.ir .consumeWrite)) :
      Effect s .consumeIndexWrite s.endIRGrant.writeConsume

/-- What a command does: nothing, a change without a reaction (the power-on reset, and GAME_RESET deasserted), or an effect
and the reaction to it. -/
inductive Does (s : State) : Instr → State → Prop
  | nothing (c : Instr) : Does s c s
  | powerOn (msz256 cpselHigh : Bool) : Does s (.powerOnReset msz256 cpselHigh) (s.poweredOn msz256 cpselHigh)
  | deassert : Does s (.warmReset false) { s with gameReset := false }
  | reacts {c : Instr} {u : State} (h : Effect s c u) : Does s c u.react

/-- An outcome of a command that is a next state, by what the command does. -/
def Answers (s : State) (c : Instr) (o : Host.Outcome State Fault Refusal) : Prop := ∃ t, o = .next t ∧ Does s c t

theorem answers_next (s : State) (c : Instr) : Answers s c (.next s) := ⟨s, rfl, .nothing c⟩

theorem Effect.answers {s u : State} {c : Instr} (h : Effect s c u) : Answers s c u.done := ⟨u.react, rfl, .reacts h⟩

end Sys2Proof.Machine
end

section
/-! PROOFS. Every command answers a next state, by one of its effects: one lemma for each command's meaning, by the
branches of its definition. -/

namespace Sys2Proof.Machine

open Sys2Proof

variable (s : State)

/-! ### The resets -/

theorem answers_powerOnReset (msz256 cpselHigh : Bool) :
    Answers s (.powerOnReset msz256 cpselHigh) (execPowerOnReset msz256 cpselHigh s) := ⟨_, rfl, .powerOn _ _⟩

theorem answers_zeroWrite : Answers s .powerOnZeroWrite (execPowerOnZeroWrite s) := by
  unfold execPowerOnZeroWrite
  split
  · next h => exact (Effect.zeroWrite h).answers
  · exact answers_next s _

theorem answers_warmReset (asserted : Bool) : Answers s (.warmReset asserted) (execWarmReset asserted s) := by
  cases asserted with
  | false => exact ⟨_, rfl, .deassert⟩
  | true =>
    simp only [execWarmReset, if_true]
    split
    · exact answers_next s _
    · next h => exact (Effect.warmReset (by simpa using h)).answers

/-! ### Master accesses -/

theorem answers_masterRequest (m : Master) (a : Access) : Answers s (.masterRequest m a) (execMasterRequest m a s) := by
  unfold execMasterRequest
  split
  · exact answers_next s _
  · next h => exact (Effect.request m a (by simpa using h)).answers

theorem answers_masterRead : Answers s .masterRead (execMasterRead s) := by
  unfold execMasterRead
  split
  · exact answers_next s _
  · next m a hgrant =>
    obtain ⟨hport, hacc⟩ := grantedAccess_eq_some_iff.mp hgrant
    split
    · exact answers_next s _
    · next hdir =>
      split
      · next hno => exact (Effect.refuse _ m a (.inl rfl) hport hacc hno).answers
      · next hyes =>
        split
        · exact answers_next s _
        · next hfog => exact (Effect.read m a ⟨hport, hacc, by simpa using hyes⟩ hdir hfog).answers

theorem answers_masterWrite : Answers s .masterWrite (execMasterWrite s) := by
  unfold execMasterWrite
  split
  · exact answers_next s _
  · next m a hgrant =>
    obtain ⟨hport, hacc⟩ := grantedAccess_eq_some_iff.mp hgrant
    split
    · exact answers_next s _
    · next hdir =>
      split
      · next hno => exact (Effect.refuse _ m a (.inr rfl) hport hacc hno).answers
      · next hyes =>
        split
        · next hpass => exact (Effect.store m a ⟨hport, hacc, by simpa using hyes⟩ hdir hpass).answers
        all_goals exact answers_next s _

theorem answers_causeWordClear : Answers s .causeWordClear (execCauseWordClear s) := by
  unfold execCauseWordClear
  split
  · exact answers_next s _
  · next m a hgrant =>
    obtain ⟨hport, hacc⟩ := grantedAccess_eq_some_iff.mp hgrant
    split
    · exact answers_next s _
    · next hdir =>
      split
      · next hclear =>
        rw [Bool.and_eq_true, beq_iff_eq] at hclear
        obtain ⟨hyes, hclears⟩ := hclear
        cases m with
        | proc => exact (Effect.clear a ⟨hport, hacc, hyes⟩ hdir hclears).answers
        | scan => cases hclears
      · exact answers_next s _

theorem answers_droppedControlWrite : Answers s .droppedControlWrite (execDroppedControlWrite s) := by
  unfold execDroppedControlWrite
  split
  · exact answers_next s _
  · next m a hgrant =>
    obtain ⟨hport, hacc⟩ := grantedAccess_eq_some_iff.mp hgrant
    split
    · exact answers_next s _
    · next hdir =>
      split
      · next hdrop =>
        rw [Bool.and_eq_true, beq_iff_eq] at hdrop
        obtain ⟨hyes, hdrops⟩ := hdrop
        exact (Effect.drop m a ⟨hport, hacc, hyes⟩ hdir hdrops).answers
      · exact answers_next s _

/-! ### The snoop stream and the clocks -/

theorem answers_watchTakeWrite : Answers s .watchTakeWrite (execWatchTakeWrite s) := by
  unfold execWatchTakeWrite
  split
  · next e h => exact (Effect.takeWrite e h).answers
  all_goals exact answers_next s _

theorem answers_revealCopyUpdate : Answers s .revealCopyUpdate (execRevealCopyUpdate s) := by
  unfold execRevealCopyUpdate
  split
  · next e h => exact (Effect.takeReveal e h).answers
  all_goals exact answers_next s _

theorem answers_enableWordTaken : Answers s .enableWordTaken (execEnableWordTaken s) := by
  unfold execEnableWordTaken
  split
  · next e h =>
    obtain ⟨hnext, haddr⟩ := nextPageWrite_eq_some_iff.mp h
    exact (Effect.takeEnable e hnext haddr).answers
  · exact answers_next s _

theorem answers_turnWordTaken : Answers s .turnWordTaken (execTurnWordTaken s) := by
  unfold execTurnWordTaken
  split
  · next e h =>
    obtain ⟨hnext, haddr⟩ := nextPageWrite_eq_some_iff.mp h
    exact (Effect.takeTurn e hnext haddr).answers
  · exact answers_next s _

theorem answers_commandProduceIndex : Answers s .commandProduceIndex (execCommandProduceIndex s) := by
  unfold execCommandProduceIndex
  split
  · next e h =>
    obtain ⟨hnext, haddr⟩ := nextPageWrite_eq_some_iff.mp h
    exact (Effect.takeProduceIndex e hnext haddr).answers
  · exact answers_next s _

theorem answers_noticeConsumeIndex : Answers s .noticeConsumeIndex (execNoticeConsumeIndex s) := by
  unfold execNoticeConsumeIndex
  split
  · next e h =>
    obtain ⟨hnext, haddr⟩ := nextPageWrite_eq_some_iff.mp h
    exact (Effect.takeConsumeIndex e hnext haddr).answers
  · exact answers_next s _

theorem answers_beat : Answers s .beat (execBeat s) := by
  unfold execBeat
  split
  · exact answers_next s _
  · next h => exact (Effect.beat (by simpa using h)).answers

theorem answers_timerExpiry : Answers s .timerExpiry (execTimerExpiry s) := by
  unfold execTimerExpiry
  split
  · next k h => exact (Effect.expiry k h).answers
  · exact answers_next s _

theorem answers_syncReadComplete : Answers s .syncReadComplete (execSyncReadComplete s) := by
  unfold execSyncReadComplete
  split
  · exact answers_next s _
  · next r hr =>
    split
    · next hport => exact (Effect.completeSync r hr hport).answers
    · next hport =>
      split
      · next word h => exact (Effect.takeSync r word hr hport h).answers
      all_goals exact answers_next s _

/-! ### The watch commands -/

/-- R18: what an ARM command defines is lawful while its read is awaited. -/
theorem armedEntry_lawful {w2 : Word} {c : Condition} {addr low width : Nat} {operand : Word} (hpos : 1 ≤ width)
    (hfit : low + width ≤ 32) (halign : addr % 4 = 0) (hfilter : (filterOfWord w2).isEmpty = false) :
    (armedEntry w2 c addr low width operand).lawful := by
  refine ⟨hpos, hfit, halign, hfilter, ?_, Nat.two_pow_pos _, fun _ => rfl⟩
  have hlt : operand.toNat % 2 ^ width < 2 ^ width := Nat.mod_lt _ (Nat.two_pow_pos _)
  exact (Nat.mod_le _ _).trans_lt hlt

theorem watchable_aligned {s : State} {a : Nat} (h : s.watchable a = true) : a % 4 = 0 := by
  unfold State.watchable at h
  simp only [Bool.and_eq_true, beq_iff_eq] at h
  obtain ⟨⟨halign, -⟩, -⟩ := h
  exact halign

section
variable {s : State} {words : List Word} (hcmd : s.cmd = .dispatched words false)
include hcmd

theorem answers_report (c : Instr) (st : Status) (rs : List Word) : Answers s c (s.report st rs).done :=
  (Effect.answer c words st rs hcmd).answers

theorem answers_armEntry {c : Instr} (hc : c = .armWatch ∨ c = .armBitWatch) (w : Fin 64) (e : Watch)
    (hsync : e.state = .syncing) (hlaw : e.lawful) : Answers s c (s.armEntry w e).done := by
  unfold State.armEntry
  split
  · next hfree => exact (Effect.arm c words w e hc hcmd hfree hsync hlaw).answers
  · exact answers_report hcmd _ _ _

end

theorem answers_armWatch : Answers s .armWatch (execArmWatch s) := by
  unfold execArmWatch
  split
  · next words h =>
    obtain ⟨hcmd, -⟩ := handed_eq_some_iff.mp h
    simp only [State.armWatch]
    split
    · exact answers_report hcmd _ _ _
    · split
      · exact answers_report hcmd _ _ _
      · split
        · exact answers_report hcmd _ _ _
        · next hgood =>
          simp only [not_or, Bool.not_eq_true, Bool.not_eq_false] at hgood
          obtain ⟨hwidth, -, -, hfit, hfilter, hwatch⟩ := hgood
          exact answers_armEntry hcmd (.inl rfl) _ _ rfl
            (armedEntry_lawful (by omega) (by omega) (watchable_aligned hwatch) hfilter)
  · exact answers_next s _

theorem answers_armBitWatch : Answers s .armBitWatch (execArmBitWatch s) := by
  unfold execArmBitWatch
  split
  · next words h =>
    obtain ⟨hcmd, -⟩ := handed_eq_some_iff.mp h
    simp only [State.armBitWatch]
    split
    · exact answers_report hcmd _ _ _
    · split
      · exact answers_report hcmd _ _ _
      · split
        · exact answers_report hcmd _ _ _
        · next hgood =>
          simp only [not_or, Bool.not_eq_true, Bool.not_eq_false] at hgood
          obtain ⟨-, -, -, -, hfilter, hwatch⟩ := hgood
          have hlow : bitStringLow (bits (wordAt words 4) 0 16) < 32 := Nat.mod_lt _ (by decide)
          exact answers_armEntry hcmd (.inr rfl) _ _ rfl
            (armedEntry_lawful (by decide) (by omega) (watchable_aligned hwatch) hfilter)
  · exact answers_next s _

theorem answers_resyncWatch : Answers s .resyncWatch (execResyncWatch s) := by
  unfold execResyncWatch
  split
  · next words h =>
    have hands := handed_eq_some_iff.mp h
    unfold State.resyncWatch
    split
    · exact answers_report (cmd_of_hands hands) _ _ _
    · split
      · exact answers_report (cmd_of_hands hands) _ _ _
      · exact answers_report (cmd_of_hands hands) _ _ _
      · next harmed => exact (Effect.resync words _ hands harmed).answers
  · exact answers_next s _

theorem answers_readWatch : Answers s .readWatch (execReadWatch s) := by
  unfold execReadWatch
  split
  · next words h =>
    have hands := handed_eq_some_iff.mp h
    unfold State.readWatch
    split
    · exact answers_report (cmd_of_hands hands) _ _ _
    · next w _ => exact (Effect.readWatch words w hands).answers
  · exact answers_next s _

theorem answers_disarmWatch : Answers s .disarmWatch (execDisarmWatch s) := by
  unfold execDisarmWatch
  split
  · next words h =>
    have hands := engineHanded_eq_some_iff.mp h
    unfold State.disarmWatch
    split
    · exact answers_report (cmd_of_handsEngine hands) _ _ _
    · next w _ =>
      split
      · exact answers_report (cmd_of_handsEngine hands) _ _ _
      · next hdef =>
        split
        · exact answers_report (cmd_of_handsEngine hands) _ _ _
        · next huse => exact (Effect.disarm words w hands hdef (by simpa using huse)).answers
  · exact answers_next s _

/-! ### The pools and the quests -/

theorem answers_defineSteps : Answers s .defineSteps (execDefineSteps s) := by
  unfold execDefineSteps
  split
  · next words h =>
    have hands := engineHanded_eq_some_iff.mp h
    simp only [State.defineSteps]
    split
    · exact answers_report (cmd_of_handsEngine hands) _ _ _
    · split
      · exact answers_report (cmd_of_handsEngine hands) _ _ _
      · next recs hparse =>
        split
        · exact answers_report (cmd_of_handsEngine hands) _ _ _
        · next huse => exact (Effect.defineSteps words recs hands hparse (by simpa using huse)).answers
  · exact answers_next s _

theorem answers_defineEffects : Answers s .defineEffects (execDefineEffects s) := by
  unfold execDefineEffects
  split
  · next words h =>
    have hands := engineHanded_eq_some_iff.mp h
    simp only [State.defineEffects]
    split
    · exact answers_report (cmd_of_handsEngine hands) _ _ _
    · split
      · exact answers_report (cmd_of_handsEngine hands) _ _ _
      · next recs hparse =>
        split
        · exact answers_report (cmd_of_handsEngine hands) _ _ _
        · next huse => exact (Effect.defineEffects words recs hands hparse (by simpa using huse)).answers
  · exact answers_next s _

theorem answers_loadQuest : Answers s .loadQuest (execLoadQuest s) := by
  unfold execLoadQuest
  split
  · next words h =>
    have hands := engineHanded_eq_some_iff.mp h
    simp only [State.loadQuest]
    split
    · exact answers_report (cmd_of_handsEngine hands) _ _ _
    · next q _ =>
      split
      · exact answers_report (cmd_of_handsEngine hands) _ _ _
      · split
        · exact answers_report (cmd_of_handsEngine hands) _ _ _
        · next hcount =>
          split
          · exact answers_report (cmd_of_handsEngine hands) _ _ _
          · next hfit =>
            split
            · next order owner _ _ =>
              split
              · exact answers_report (cmd_of_handsEngine hands) _ _ _
              · next hrest =>
                exact (Effect.loadQuest words q _ _ order owner _ hands (by omega) (by omega) (Nat.not_lt.mp hfit)
                  (by simpa using hrest)).answers
            · exact answers_report (cmd_of_handsEngine hands) _ _ _
  · exact answers_next s _

theorem answers_unloadQuest : Answers s .unloadQuest (execUnloadQuest s) := by
  unfold execUnloadQuest
  split
  · next words h =>
    have hands := engineHanded_eq_some_iff.mp h
    unfold State.unloadQuest
    split
    · exact answers_report (cmd_of_handsEngine hands) _ _ _
    · next q _ =>
      split
      case h_5 | h_6 | h_7 =>
        next hstate => exact (Effect.unloadQuest words q hands (by rw [hstate]; rfl)).answers
      all_goals exact answers_report (cmd_of_handsEngine hands) _ _ _
  · exact answers_next s _

theorem answers_readQuest : Answers s .readQuest (execReadQuest s) := by
  unfold execReadQuest
  split
  · next words h =>
    have hands := engineHanded_eq_some_iff.mp h
    unfold State.readQuest
    split <;> exact answers_report (cmd_of_handsEngine hands) _ _ _
  · exact answers_next s _

theorem answers_startQuest : Answers s .startQuest (execStartQuest s) := by
  unfold execStartQuest
  split
  · next words h =>
    have hands := engineHanded_eq_some_iff.mp h
    unfold State.startQuest
    split
    · exact answers_report (cmd_of_handsEngine hands) _ _ _
    · next q _ =>
      split
      · exact answers_report (cmd_of_handsEngine hands) _ _ _
      · next hdef =>
        split
        · exact answers_report (cmd_of_handsEngine hands) _ _ _
        · next hrest =>
          split
          · exact answers_report (cmd_of_handsEngine hands) _ _ _
          · next hvalid => exact (Effect.startQuest words q hands hdef (by simpa using hrest) hvalid).answers
  · exact answers_next s _

theorem answers_holdQuest : Answers s .holdQuest (execHoldQuest s) := by
  unfold execHoldQuest
  split
  · next words h =>
    have hands := engineHanded_eq_some_iff.mp h
    unfold State.holdQuest
    split
    · exact answers_report (cmd_of_handsEngine hands) _ _ _
    · next q _ =>
      split
      case h_2 hactive => exact (Effect.holdQuest words q hands hactive).answers
      all_goals exact answers_report (cmd_of_handsEngine hands) _ _ _
  · exact answers_next s _

theorem answers_resumeQuest : Answers s .resumeQuest (execResumeQuest s) := by
  unfold execResumeQuest
  split
  · next words h =>
    have hands := engineHanded_eq_some_iff.mp h
    unfold State.resumeQuest
    split
    · exact answers_report (cmd_of_handsEngine hands) _ _ _
    · next q _ =>
      split
      case h_2 hheld =>
        dsimp only
        split
        · exact (Effect.resumeLate words q hands hheld).answers
        · exact (Effect.resumeQuest words q hands hheld).answers
      all_goals exact answers_report (cmd_of_handsEngine hands) _ _ _
  · exact answers_next s _

theorem answers_abandonQuest : Answers s .abandonQuest (execAbandonQuest s) := by
  unfold execAbandonQuest
  split
  · next words h =>
    have hands := engineHanded_eq_some_iff.mp h
    unfold State.abandonQuest
    split
    · exact answers_report (cmd_of_handsEngine hands) _ _ _
    · next q _ =>
      split
      · exact answers_report (cmd_of_handsEngine hands) _ _ _
      · split
        · next hrun => exact (Effect.abandonQuest words q hands hrun).answers
        · exact answers_report (cmd_of_handsEngine hands) _ _ _
  · exact answers_next s _

/-! ### The timer commands -/

section
variable {s : State} {words : List Word} (hcmd : s.cmd = .dispatched words false)
include hcmd

theorem answers_timerReport (c : Instr) (st : Status) (rs : List Word) :
    Answers s c (s.settleTimers.report st rs).done := (Effect.timerAnswer c words st rs hcmd).answers

theorem answers_timerSet (c : Instr) (k : Fin 8) (f : Timer → Timer) (hbinder : ∀ x, (f x).binder = x.binder) :
    Answers s c ((s.settleTimers.updTimer k f).report .ok []).done := (Effect.timerSet c words k f hcmd hbinder).answers

end

theorem withSetting_binder (x : Timer) (clock : Clock) (mode : TimerMode) (route : Bool) (reload : BitVec 16) :
    (x.withSetting clock mode route reload).binder = x.binder := by rw [Timer.withSetting_eq]

theorem started_binder (x : Timer) : x.started.binder = x.binder := by
  unfold Timer.started
  split <;> rfl

theorem answers_setTimer : Answers s .setTimer (execSetTimer s) := by
  unfold execSetTimer
  split
  · next words h =>
    obtain ⟨hcmd, -⟩ := handed_eq_some_iff.mp h
    simp only [State.setTimer]
    split
    · exact answers_timerReport hcmd _ _ _
    · split
      · split
        · exact answers_timerReport hcmd _ _ _
        · split
          · exact answers_timerReport hcmd _ _ _
          · exact answers_timerSet hcmd _ _ _ fun x => withSetting_binder x _ _ _ _
      · exact answers_timerReport hcmd _ _ _
  · exact answers_next s _

theorem answers_presetTimer : Answers s .presetTimer (execPresetTimer s) := by
  unfold execPresetTimer
  split
  · next words h =>
    obtain ⟨hcmd, -⟩ := handed_eq_some_iff.mp h
    unfold State.presetTimer
    split
    · exact answers_timerReport hcmd _ _ _
    · split
      · exact answers_timerReport hcmd _ _ _
      · split
        · exact answers_timerReport hcmd _ _ _
        · exact answers_timerSet hcmd _ _ _ fun _ => rfl
  · exact answers_next s _

theorem answers_runTimer : Answers s .runTimer (execRunTimer s) := by
  unfold execRunTimer
  split
  · next words h =>
    obtain ⟨hcmd, -⟩ := handed_eq_some_iff.mp h
    unfold State.runTimer
    split
    · exact answers_timerReport hcmd _ _ _
    · split
      · exact answers_timerReport hcmd _ _ _
      · split
        · exact answers_timerReport hcmd _ _ _
        · exact answers_timerSet hcmd _ _ _ started_binder
  · exact answers_next s _

theorem answers_stopTimer : Answers s .stopTimer (execStopTimer s) := by
  unfold execStopTimer
  split
  · next words h =>
    obtain ⟨hcmd, -⟩ := handed_eq_some_iff.mp h
    unfold State.stopTimer
    split
    · exact answers_timerReport hcmd _ _ _
    · split
      · exact answers_timerReport hcmd _ _ _
      · exact answers_timerSet hcmd _ _ _ fun _ => rfl
  · exact answers_next s _

theorem answers_readTimer : Answers s .readTimer (execReadTimer s) := by
  unfold execReadTimer
  split
  · next words h =>
    obtain ⟨hcmd, -⟩ := handed_eq_some_iff.mp h
    unfold State.readTimer
    split <;> exact answers_timerReport hcmd _ _ _
  · exact answers_next s _

/-! ### The regions and the notice ring -/

theorem answers_setRegion : Answers s .setRegion (execSetRegion s) := by
  unfold execSetRegion
  split
  · next words h =>
    obtain ⟨hcmd, -⟩ := handed_eq_some_iff.mp h
    unfold State.setRegion
    split
    · exact answers_report hcmd _ _ _
    · next n _ =>
      split
      · exact answers_report hcmd _ _ _
      · next r _ => exact (Effect.holdRegion _ words n r (.inl rfl) hcmd).answers
  · exact answers_next s _

theorem answers_clearRegion : Answers s .clearRegion (execClearRegion s) := by
  unfold execClearRegion
  split
  · next words h =>
    obtain ⟨hcmd, -⟩ := handed_eq_some_iff.mp h
    unfold State.clearRegion
    split
    · exact answers_report hcmd _ _ _
    · next n _ => exact (Effect.holdRegion _ words n _ (.inr rfl) hcmd).answers
  · exact answers_next s _

theorem answers_setNoticeRing : Answers s .setNoticeRing (execSetNoticeRing s) := by
  unfold execSetNoticeRing
  split
  · next words h =>
    have hands := handed_eq_some_iff.mp h
    simp only [State.setNoticeRing]
    split
    · next hok =>
      split
      · next hfree => exact (Effect.installRing words _ _ hands hok hfree).answers
      · next hbusy => exact (Effect.holdRing words _ _ hands hok (by simpa using hbusy)).answers
    · exact answers_report (cmd_of_hands hands) _ _ _
  · exact answers_next s _

/-! ### The engine and the effect unit -/

theorem answers_watchTriggerTake : Answers s .watchTriggerTake (execWatchTriggerTake s) := by
  unfold execWatchTriggerTake
  split
  · next hready => exact (Effect.engineGoesOn _ hready).answers
  · split
    · exact answers_next s _
    · next hidle =>
      have hwork : s.work = none := by simp_all
      split
      · next hqueue => exact (Effect.takeWatchEntry _ _ _ _ hwork hqueue).answers
      all_goals exact answers_next s _

theorem answers_expiryTriggerTake : Answers s .expiryTriggerTake (execExpiryTriggerTake s) := by
  unfold execExpiryTriggerTake
  split
  · next hready => exact (Effect.engineGoesOn _ hready).answers
  · split
    · exact answers_next s _
    · next hidle =>
      have hwork : s.work = none := by simp_all
      split
      · next k b rest hqueue =>
        unfold State.takeExpiryEntry
        split
        · exact (Effect.dropExpiry _ _ _ hwork hqueue).answers
        · next q =>
          split
          · next hholds =>
            have hbound : (s.quest q).bound = some k := eq_of_beq hholds
            split
            case h_1 hactive => exact (Effect.timeoutExpiry _ _ _ hwork hqueue hbound hactive).answers
            case h_2 hheld => exact (Effect.lateExpiry _ _ _ hwork hqueue hbound hheld).answers
            all_goals exact (Effect.dropExpiry _ _ _ hwork hqueue).answers
          · exact (Effect.dropExpiry _ _ _ hwork hqueue).answers
      all_goals exact answers_next s _

/-- R162, log 19: what is left of a withdrawn grant ends in the step that would have made the access. -/
theorem answers_endOrphan {s : State} {a : IRAccess} {op : OrphanOp} (ha : a.withdrawn = true)
    (hport : s.mpa.port = some (.orphan a op)) : Answers s a.step (s.endOrphan op).done := by
  unfold State.endOrphan
  split
  · exact (Effect.endGrant a (.inr ⟨_, hport⟩)).answers
  · exact (Effect.orphanWrite _ _ _ ha hport).answers
  · split
    · next hok => exact (Effect.orphanEffect _ _ ha hport hok).answers
    · exact (Effect.endGrant a (.inr ⟨_, hport⟩)).answers

theorem answers_effectGrant : Answers s .effectGrant (execEffectGrant s) := by
  unfold execEffectGrant
  split
  · next j hport hunit =>
    split
    · next hok => exact (Effect.grantEffect j hport hunit hok).answers
    · next hno => exact (Effect.denyEffect j hport hunit (by simpa using hno)).answers
  · next hport => exact answers_endOrphan rfl hport
  · exact answers_next s _

theorem answers_effectSettled : Answers s .effectSettled (execEffectSettled s) := by
  unfold execEffectSettled
  split
  · next hunit =>
    split
    · exact answers_next s _
    · next htaken => exact (Effect.effectSettled _ _ hunit (by simpa using htaken)).answers
  all_goals exact answers_next s _

/-! ### The writes of the cause unit, the notice writer and the command unit -/

theorem answers_faultWordWrite : Answers s .faultWordWrite (execFaultWordWrite s) := by
  unfold execFaultWordWrite
  split
  · next hport => exact (Effect.faultWord hport).answers
  · next hport => exact answers_endOrphan rfl hport
  · exact answers_next s _

theorem answers_causeWordPublish : Answers s .causeWordPublish (execCauseWordPublish s) := by
  unfold execCauseWordPublish
  split
  · next hport => exact (Effect.causeWord hport).answers
  · next hport => exact answers_endOrphan rfl hport
  · exact answers_next s _

theorem answers_vectorWordPublish : Answers s .vectorWordPublish (execVectorWordPublish s) := by
  unfold execVectorWordPublish
  split
  · next hport => exact (Effect.vectorWord hport).answers
  · next hport => exact answers_endOrphan rfl hport
  · exact answers_next s _

theorem answers_warmResetCauseWrite : Answers s .warmResetCauseWrite (execWarmResetCauseWrite s) := by
  unfold execWarmResetCauseWrite
  split
  · next hport =>
    unfold State.resetCauseWrite
    split
    · next hpub => exact (Effect.resetCauseWord hport hpub).answers
    · next hpub => exact (Effect.resetVectorWord hport hpub).answers
    all_goals exact (Effect.endGrant .resetWrite (.inl hport)).answers
  · next hport => exact answers_endOrphan rfl hport
  · exact answers_next s _

theorem answers_noticeElementWrite : Answers s .noticeElementWrite (execNoticeElementWrite s) := by
  unfold execNoticeElementWrite
  split
  · next k hport hwriter =>
    simp only [State.writeElementWord]
    split
    · next hk => exact (Effect.lastElementWord k hport hwriter hk).answers
    · next hk => exact (Effect.elementWord k hport hwriter hk).answers
  · next hport => exact answers_endOrphan rfl hport
  · exact answers_next s _

theorem answers_noticeProduceWrite : Answers s .noticeProduceWrite (execNoticeProduceWrite s) := by
  unfold execNoticeProduceWrite
  split
  · next hport => exact (Effect.publishElement hport).answers
  · exact answers_next s _

/-- R191: the command that waits for the ring is one that the notice writer has taken, with nothing pending. -/
theorem ringCommandWaits_iff (s : State) :
    s.ringCommandWaits = true ↔
      ∃ words, s.cmd = .dispatched words true ∧ codeOf words = 0x50 ∧ s.notice.pendingConfig = none := by
  unfold State.ringCommandWaits
  split <;> simp_all

theorem answers_noticeRingIndexWrite : Answers s .noticeRingIndexWrite (execNoticeRingIndexWrite s) := by
  unfold execNoticeRingIndexWrite
  split
  · next hport =>
    simp only [State.writeRingIndex]
    split
    · next hfirst => exact (Effect.ringProduceWord hport hfirst).answers
    · next hsecond =>
      split
      · next hwaits =>
        obtain ⟨words, hcmd, hcode, hpending⟩ := (ringCommandWaits_iff _).mp hwaits
        exact (Effect.ringAnswered words hport hsecond hcmd hcode hpending).answers
      · exact (Effect.ringConsumeWord hport hsecond).answers
  · exact answers_next s _

theorem answers_commandFetchRead : Answers s .commandFetchRead (execCommandFetchRead s) := by
  unfold execCommandFetchRead
  split
  · next words hport hcmd => exact (Effect.fetch words hport hcmd).answers
  · next hport => exact answers_endOrphan rfl hport
  · exact answers_next s _

theorem answers_resultWordWrite : Answers s .resultWordWrite (execResultWordWrite s) := by
  unfold execResultWordWrite
  split
  · next st k results hport hcmd =>
    cases results with
    | nil => exact (Effect.endGrant .resultWrite (.inl hport)).answers
    | cons r rest => exact (Effect.resultWord st k r rest hport hcmd).answers
  · next hport => exact answers_endOrphan rfl hport
  · exact answers_next s _

theorem answers_statusWordWrite : Answers s .statusWordWrite (execStatusWordWrite s) := by
  unfold execStatusWordWrite
  split
  · next hport hcmd => exact (Effect.statusWord _ _ _ hport hcmd).answers
  · next hport => exact answers_endOrphan rfl hport
  · exact answers_next s _

theorem answers_consumeIndexWrite : Answers s .consumeIndexWrite (execConsumeIndexWrite s) := by
  unfold execConsumeIndexWrite
  split
  · next hport => exact (Effect.consumeIndex hport).answers
  · next hport => exact answers_endOrphan rfl hport
  · exact answers_next s _

/-! ### Every command -/

/-- What a command can do, in every state. -/
theorem exec_answers (c : Instr) : Answers s c (exec c s) := by
  cases c with
  | powerOnReset msz256 cpselHigh => exact answers_powerOnReset s msz256 cpselHigh
  | powerOnZeroWrite => exact answers_zeroWrite s
  | warmReset asserted => exact answers_warmReset s asserted
  | masterRequest m a => exact answers_masterRequest s m a
  | masterRead => exact answers_masterRead s
  | masterWrite => exact answers_masterWrite s
  | causeWordClear => exact answers_causeWordClear s
  | droppedControlWrite => exact answers_droppedControlWrite s
  | watchTakeWrite => exact answers_watchTakeWrite s
  | revealCopyUpdate => exact answers_revealCopyUpdate s
  | enableWordTaken => exact answers_enableWordTaken s
  | turnWordTaken => exact answers_turnWordTaken s
  | commandProduceIndex => exact answers_commandProduceIndex s
  | noticeConsumeIndex => exact answers_noticeConsumeIndex s
  | beat => exact answers_beat s
  | timerExpiry => exact answers_timerExpiry s
  | syncReadComplete => exact answers_syncReadComplete s
  | armWatch => exact answers_armWatch s
  | armBitWatch => exact answers_armBitWatch s
  | disarmWatch => exact answers_disarmWatch s
  | resyncWatch => exact answers_resyncWatch s
  | readWatch => exact answers_readWatch s
  | defineSteps => exact answers_defineSteps s
  | defineEffects => exact answers_defineEffects s
  | loadQuest => exact answers_loadQuest s
  | startQuest => exact answers_startQuest s
  | holdQuest => exact answers_holdQuest s
  | resumeQuest => exact answers_resumeQuest s
  | abandonQuest => exact answers_abandonQuest s
  | unloadQuest => exact answers_unloadQuest s
  | readQuest => exact answers_readQuest s
  | setTimer => exact answers_setTimer s
  | presetTimer => exact answers_presetTimer s
  | runTimer => exact answers_runTimer s
  | stopTimer => exact answers_stopTimer s
  | readTimer => exact answers_readTimer s
  | setRegion => exact answers_setRegion s
  | clearRegion => exact answers_clearRegion s
  | setNoticeRing => exact answers_setNoticeRing s
  | watchTriggerTake => exact answers_watchTriggerTake s
  | expiryTriggerTake => exact answers_expiryTriggerTake s
  | effectGrant => exact answers_effectGrant s
  | effectSettled => exact answers_effectSettled s
  | faultWordWrite => exact answers_faultWordWrite s
  | causeWordPublish => exact answers_causeWordPublish s
  | vectorWordPublish => exact answers_vectorWordPublish s
  | warmResetCauseWrite => exact answers_warmResetCauseWrite s
  | noticeElementWrite => exact answers_noticeElementWrite s
  | noticeProduceWrite => exact answers_noticeProduceWrite s
  | noticeRingIndexWrite => exact answers_noticeRingIndexWrite s
  | commandFetchRead => exact answers_commandFetchRead s
  | resultWordWrite => exact answers_resultWordWrite s
  | statusWordWrite => exact answers_statusWordWrite s
  | consumeIndexWrite => exact answers_consumeIndexWrite s

theorem does_of_exec {s t : State} {c : Instr} (h : exec c s = .next t) : Does s c t := by
  obtain ⟨u, hu, hdoes⟩ := exec_answers s c
  rw [hu] at h
  cases h
  exact hdoes

end Sys2Proof.Machine
end

section
/-! PROOFS. How a law is shown to be kept by every step: the principle, the branches of the operations that end a step, and
the parts of a work item, each part once. -/

namespace Sys2Proof.Machine

open Sys2Proof

/-! ### The principle -/

/-- A property that every effect, the reaction, and the changes without a reaction keep. -/
structure KeptByEffects (P : State → Prop) : Prop where
  pending : ∀ {s : State} (rest : List Instr), P s → P { s with pending := rest }
  powerOn : ∀ {s : State} (msz256 cpselHigh : Bool), P s → P (s.poweredOn msz256 cpselHigh)
  deassert : ∀ {s : State}, P s → P { s with gameReset := false }
  react : ∀ {s : State}, P s → P s.react
  effect : ∀ {s u : State} {c : Instr}, P s → Effect s c u → P u

theorem KeptByEffects.does {P : State → Prop} (hP : KeptByEffects P) {s t : State} {c : Instr} (h : P s)
    (hdoes : Does s c t) : P t := by
  cases hdoes with
  | nothing => exact h
  | powerOn msz256 cpselHigh => exact hP.powerOn _ _ h
  | deassert => exact hP.deassert h
  | reacts heff => exact hP.react (hP.effect h heff)

theorem KeptByEffects.step {P : State → Prop} (hP : KeptByEffects P) {s t : State} (h : P s)
    (hstep : step s = .next t) : P t := by
  unfold Machine.step at hstep
  split at hstep
  · cases hstep
    exact h
  · exact hP.does (hP.pending _ h) (does_of_exec hstep)

/-! ### Operations with branches -/

theorem examineRing_cases (s : State) :
    s.examineRing = s ∨
      ∃ n rest, s.notice.writer = .idle ∧ s.notice.hold = n :: rest ∧ s.notice.indexWrites = 0
        ∧ s.examineRing =
          { s with notice := { s.notice with hold := rest, element := some n, writer := .writing 0 } } := by
  unfold State.examineRing
  split
  · next n rest hwriter hhold =>
    split
    · next hfree =>
      simp only [Bool.and_eq_true, beq_iff_eq] at hfree
      obtain ⟨⟨-, hwrites⟩, -⟩ := hfree
      exact .inr ⟨n, rest, hwriter, hhold, hwrites, rfl⟩
    · exact .inl rfl
  all_goals exact .inl rfl

theorem handNotice_cases (s : State) (n : Notice) :
    s.handNotice n = s.raise causeNoticeLost ∨
      (s.notice.hold.length < 8 ∧
        s.handNotice n =
          State.examineRing
            { s with notice := { s.notice with hold := s.notice.hold ++ [{ n with turn := s.page.turn }] } }) := by
  unfold State.handNotice
  split
  · next hroom => exact .inr ⟨hroom, rfl⟩
  · exact .inl rfl

theorem writerFree_cases (s : State) :
    s.writerFree = s.examineRing ∨
      ∃ c, s.notice.pendingConfig = some c ∧ s.writerFree = s.installRing c.1 c.2 := by
  unfold State.writerFree
  split
  · next c hc => exact .inr ⟨c, hc, rfl⟩
  · exact .inl rfl

theorem issueSync_cases (s : State) :
    s.issueSync = s ∨
      ∃ w, s.syncRead = none ∧ s.watchReset = none ∧ (s.watch w).state = .syncing
        ∧ s.issueSync =
          { s with syncRead := some { watch := w, addr := (s.watch w).addr, completed := false, stale := false } } := by
  unfold State.issueSync
  split
  · exact .inl rfl
  · exact .inl rfl
  · next hreset hsync =>
    split
    · exact .inl rfl
    · next w hw =>
      refine .inr ⟨w, hsync, hreset, ?_, rfl⟩
      have hstate := List.find?_some hw
      exact eq_of_beq hstate

/-! ### The parts of a work item -/

/-- A property that the operations of the engine's parts keep, apart from the work item itself. -/
structure PartStable (P : State → Prop) : Prop where
  quest : ∀ {s : State} (q : Fin 32) (f : Quest → Quest), P s → P (s.updQuest q f)
  timer : ∀ {s : State} (k : Fin 8) (f : Timer → Timer), P s → P (s.updTimer k f)
  expire : ∀ {s : State} (k : Fin 8), P s → P (s.expire k)
  notice : ∀ {s : State} (n : Notice), P s → P (s.handNotice n)
  unit : ∀ {s : State} (j : EffectJob) (n : Nat), j.record = s.effectRec n → P s →
    P { s with effectUnit := .grantWait j }

namespace PartStable

variable {P : State → Prop} (hP : PartStable P) {s : State}
include hP

theorem foldExpire (l : List (Fin 8)) (h : P s) :
    P (l.foldl (fun s t => if (s.timer t).expiryDue then s.expire t else s) s) := by
  induction l generalizing s with
  | nil => exact h
  | cons k rest ih =>
    refine ih (s := if (s.timer k).expiryDue then s.expire k else s) ?_
    split
    · exact hP.expire k h
    · exact h

theorem settleTimers (h : P s) : P s.settleTimers := hP.foldExpire _ h

theorem dropBound (b : Option (Fin 32)) (q : Fin 32) (h : P s) : P (s.dropBound b q) := by
  unfold State.dropBound
  split
  · exact h
  · split
    · exact h
    · exact hP.quest _ _ h

theorem bindTimer (q : Fin 32) (k : Fin 8) (h : P s) : P (s.bindTimer q k) := by
  simp only [State.bindTimer]
  split
  · exact hP.settleTimers h
  · exact hP.quest _ _ (hP.timer _ _ (hP.dropBound _ _ (hP.settleTimers h)))

theorem release (q : Fin 32) (h : P s) : P (s.release q) := by
  unfold State.release
  split
  · exact h
  · exact hP.quest _ _ (hP.timer _ _ (hP.settleTimers h))

end PartStable

/-- A part of a work item: operations of the engine, and then the work item with the same source. -/
def IsPart (s : State) (w : WorkItem) (t : State) : Prop :=
  ∃ (u : State) (v : WorkItem), v.source = w.source ∧ t = { u with work := some v }
    ∧ ∀ P : State → Prop, PartStable P → P s → P u

theorem IsPart.withTask {s u : State} {w : WorkItem} (k : Task) (h : ∀ P : State → Prop, PartStable P → P s → P u) :
    IsPart s w (u.withTask w k) := ⟨u, { w with task := k }, rfl, rfl, h⟩

theorem IsPart.ofSource {s t : State} {v w : WorkItem} (hsource : v.source = w.source) (h : IsPart s v t) :
    IsPart s w t := by
  obtain ⟨u, x, hx, ht, hu⟩ := h
  exact ⟨u, x, hx.trans hsource, ht, hu⟩

/-- A part after operations of the engine. -/
theorem IsPart.after {s u t : State} {w : WorkItem} (hpart : IsPart u w t)
    (h : ∀ P : State → Prop, PartStable P → P s → P u) : IsPart s w t := by
  obtain ⟨v, x, hsource, ht, hv⟩ := hpart
  exact ⟨v, x, hsource, ht, fun P hP hs => hv P hP (h P hP hs)⟩

section
variable (s : State) (w : WorkItem) (q : Fin 32)

theorem isPart_enterStep (i : Nat) : IsPart s w (s.enterStep w q i) := by
  simp only [State.enterStep]
  refine .withTask _ fun P hP h => ?_
  split
  · exact hP.quest _ _ h
  · exact hP.bindTimer _ _ (hP.quest _ _ h)

theorem isPart_beginQuest (depth : Nat) : IsPart s w (s.beginQuest w q depth) :=
  (isPart_enterStep _ _ _ _).after fun _ hP h => hP.quest _ _ h

omit w q in
theorem effectJob_record {r : EffectRec} {depth : Nat} {j : EffectJob} (h : s.effectJob r depth = some j) :
    j.record = r := by
  unfold State.effectJob at h
  split at h
  · split at h
    · cases h
      rfl
    · cases h
  · split at h
    · split at h
      · cases h
      · cases h
        rfl
    · cases h
  all_goals
    cases h
    rfl

theorem isPart_requestEffect (i : Nat) (outs : List EffectResult) : IsPart s w (s.requestEffect w q i outs) := by
  simp only [State.requestEffect]
  split
  · split
    · exact .withTask _ fun _ _ h => h
    · next j hjob => exact .withTask _ fun _ hP h => hP.unit j _ (effectJob_record s hjob) h
  · exact .withTask _ fun _ _ h => h

theorem isPart_makeCall (c : Fin 32) : IsPart s w (s.makeCall w q c) := by
  unfold State.makeCall
  split
  · exact .withTask _ fun _ _ h => h
  · exact (isPart_beginQuest _ _ _ _).after fun _ hP h => hP.quest _ _ (hP.quest _ _ h)

theorem isPart_finishPass (outs : List EffectResult) : IsPart s w (s.finishPass w q outs) := by
  have hnotice : ∀ P : State → Prop, PartStable P → P s → ∀ (b : Bool) (n : Notice),
      P (if b then s.handNotice n else s) := by
    intro P hP h b n
    split
    · exact hP.notice _ h
    · exact h
  simp only [State.finishPass]
  split
  · exact .withTask _ fun P hP h => hnotice P hP h _ _
  · exact (isPart_makeCall _ _ _ _).after fun P hP h => hnotice P hP h _ _

theorem isPart_advanceQuest (how : Ended) : IsPart s w (s.advanceQuest w q how) := by
  simp only [State.advanceQuest]
  split
  · exact isPart_enterStep _ _ _ _
  · split
    · exact .withTask _ fun _ hP h => hP.notice _ (hP.quest _ _ h)
    · exact .withTask _ fun _ hP h => hP.quest _ _ (hP.quest _ _ (hP.notice _ (hP.quest _ _ h)))

theorem isPart_timeoutQuest : IsPart s w (s.timeoutQuest w q) := by
  simp only [State.timeoutQuest]
  split
  · exact .withTask _ fun _ hP h => hP.release _ h
  · refine .withTask _ fun _ hP h => ?_
    split
    · exact hP.notice _ (hP.release _ h)
    · exact hP.release _ h
  · exact .withTask _ fun _ hP h => hP.notice _ (hP.release _ h)

theorem isPart_failQuest (reason : FailReason) (timer : Option (Fin 8)) (upTo : Option (Fin 32)) :
    IsPart s w (s.failQuest w q reason timer upTo) := by
  simp only [State.failQuest]
  split
  · exact .withTask _ fun _ hP h => hP.quest _ _ (hP.notice _ (hP.quest _ _ (hP.release _ h)))
  · exact .withTask _ fun _ hP h =>
      hP.quest _ _ (hP.quest _ _ (hP.quest _ _ (hP.notice _ (hP.quest _ _ (hP.release _ h)))))

end

/-- R64, R67: a visit goes on with the next recorded quest, or the work item ends. -/
theorem nextVisit_cases (s : State) (w : WorkItem) : s.nextVisit w = s.endWork w ∨ IsPart s w (s.nextVisit w) := by
  unfold State.nextVisit
  split
  · exact .inl rfl
  · next q rest _ =>
    right
    split
    all_goals exact IsPart.ofSource (v := { w with visits := rest }) rfl (.withTask _ fun _ _ h => h)

/-- What one part of a work item does: it ends the work item, or goes on with it. -/
theorem engineStep_cases (s : State) (w : WorkItem) (hgoes : w.task.waits = false) :
    s.engineStep w = s.endWork w ∨ IsPart s w (s.engineStep w) := by
  unfold State.engineStep
  split
  · exact nextVisit_cases s w
  · exact .inr (.withTask _ fun _ hP h => hP.release _ h)
  · exact .inr (isPart_requestEffect _ _ _ _ _)
  · next htask => rw [htask] at hgoes; cases hgoes
  · exact .inr (isPart_finishPass _ _ _ _)
  · exact .inr (isPart_advanceQuest _ _ _ _)
  · exact .inr (isPart_timeoutQuest _ _ _)
  · exact .inr (isPart_failQuest _ _ _ _ _ _)

/-! ### A run of the engine -/

/-- What every part keeps is kept by a run of parts. -/
theorem runParts_keeps {P : State → Prop}
    (hstep : ∀ {s : State} {w : WorkItem}, s.work = some w → w.task.waits = false → P s → P (s.engineStep w))
    (n : Nat) {s : State} (h : P s) : P (runParts n s) := by
  induction n generalizing s with
  | zero => exact h
  | succ n ih =>
    unfold runParts
    split
    · exact h
    · next w hwork =>
      split
      · exact h
      · next hwaits => exact ih (hstep hwork (by simpa using hwaits) h)

/-- A property that the engine's parts keep whatever the work item, with the work item and the answer to its command. -/
structure EngineStable (P : State → Prop) : Prop extends PartStable P where
  work : ∀ {s : State} (w : Option WorkItem), P s → P { s with work := w }
  answer : ∀ {s : State} (st : Status) (rs : List Word), P s → P (s.report st rs)

namespace EngineStable

variable {P : State → Prop} (hP : EngineStable P) {s : State}
include hP

theorem ofPart {t : State} {w : WorkItem} (hpart : IsPart s w t) (h : P s) : P t := by
  obtain ⟨u, v, -, rfl, hu⟩ := hpart
  exact hP.work _ (hu P hP.toPartStable h)

theorem endWork (w : WorkItem) (h : P s) : P (s.endWork w) := by
  unfold State.endWork
  split
  · exact hP.answer _ _ (hP.work _ h)
  all_goals exact hP.work _ h

theorem engineStep (w : WorkItem) (hgoes : w.task.waits = false) (h : P s) : P (s.engineStep w) := by
  obtain hend | hpart := engineStep_cases s w hgoes
  · rw [hend]
    exact hP.endWork w h
  · exact hP.ofPart hpart h

theorem runEngine (h : P s) : P s.runEngine := runParts_keeps (fun _ hgoes h => hP.engineStep _ hgoes h) _ h

theorem effectReported (r : EffectResult) (h : P s) : P (s.effectReported r) := by
  unfold State.effectReported
  split
  · exact h
  · split
    · exact hP.runEngine (hP.work _ h)
    all_goals exact h

theorem beginWork (source : Source) (depth player : Nat) (visits : List (Fin 32)) (task : Task) (h : P s) :
    P (s.beginWork source depth player visits task) := hP.runEngine (hP.work _ h)

end EngineStable

end Sys2Proof.Machine
end

section
/-! PROOFS. What the operations with folds and branches leave as it was: each is the state with the fields that it may
change, so a frame fact about it is read off by rewriting. -/

namespace Sys2Proof.Machine

open Sys2Proof

/-! ### The watch unit -/

/-- `t` is `s` but for what the watch unit may change when it takes an item. -/
def WatchUnitKeeps (s t : State) : Prop :=
  t = { s with watches := t.watches, queue := t.queue, cause := t.cause, notice := t.notice }

theorem WatchUnitKeeps.trans {s t u : State} (hst : WatchUnitKeeps s t) (htu : WatchUnitKeeps t u) :
    WatchUnitKeeps s u := by
  unfold WatchUnitKeeps at hst htu ⊢
  refine htu.trans ?_
  rw [hst]

theorem watchUnitKeeps_handNotice (s : State) (n : Notice) : WatchUnitKeeps s (s.handNotice n) := by
  obtain hlost | ⟨-, hheld⟩ := handNotice_cases s n
  · rw [hlost]
    rfl
  · rw [hheld]
    obtain hstill | ⟨m, rest, -, -, -, htaken⟩ := examineRing_cases
      { s with notice := { s.notice with hold := s.notice.hold ++ [{ n with turn := s.page.turn }] } }
    · rw [hstill]
      rfl
    · rw [htaken]
      rfl

theorem watchUnitKeeps_offerWatch (s : State) (w : Fin 64) (writer : Writer) (depth : Nat) :
    WatchUnitKeeps s (s.offerWatch w writer depth) := by
  unfold State.offerWatch
  split <;> rfl

theorem watchUnitKeeps_fireWatch (s : State) (w : Fin 64) (writer : Writer) (depth : Nat) (before after : Word) :
    WatchUnitKeeps s (s.fireWatch w writer depth before after) := by
  simp only [State.fireWatch]
  split
  · exact (watchUnitKeeps_offerWatch s w writer depth).trans (watchUnitKeeps_handNotice _ _)
  · exact watchUnitKeeps_offerWatch s w writer depth

theorem watchUnitKeeps_watchTakes (s : State) (e : SnoopWrite) (w : Fin 64) :
    WatchUnitKeeps s (s.watchTakes e w) := by
  have hupd : WatchUnitKeeps s (s.updWatch w (fun x => x.observe e)) := rfl
  simp only [State.watchTakes]
  split
  · split
    · exact hupd.trans (watchUnitKeeps_fireWatch _ _ _ _ _ _)
    · exact hupd
  · rfl

theorem watchUnitKeeps_foldTakes (e : SnoopWrite) (l : List (Fin 64)) (s : State) :
    WatchUnitKeeps s (l.foldl (fun s w => s.watchTakes e w) s) := by
  induction l generalizing s with
  | nil => rfl
  | cons w rest ih => exact (watchUnitKeeps_watchTakes s e w).trans (ih _)

theorem takeWrite_eq (s : State) (e : SnoopWrite) :
    s.takeWrite e =
      { s with
        watches := (s.takeWrite e).watches, queue := (s.takeWrite e).queue, cause := (s.takeWrite e).cause
        notice := (s.takeWrite e).notice } :=
  watchUnitKeeps_foldTakes e _ s

theorem watchUnitKeeps_syncWatch (s : State) (w : Fin 64) (word : Word) : WatchUnitKeeps s (s.syncWatch w word) := by
  have hupd : WatchUnitKeeps s (s.updWatch w (fun x => x.synced word)) := rfl
  simp only [State.syncWatch]
  split
  · exact hupd.trans (watchUnitKeeps_fireWatch _ _ _ _ _ _)
  · exact hupd

/-- The watch unit takes its read's completion: a discarded one changes the read alone; one of its watch synchronises the
watch, and answers the command that waits for it. -/
theorem takeSync_cases (s : State) (r : SyncRead) (word : Word) :
    s.takeSync r word = State.issueSync { s with syncRead := none }
      ∨ r.stale = false ∧ (s.watch r.watch).state = .syncing
        ∧ (s.takeSync r word = (State.syncWatch { s with syncRead := none } r.watch word).issueSync
          ∨ (∃ words, s.cmd = .dispatched words true
              ∧ (codeOf words = 0x10 ∨ codeOf words = 0x11 ∨ codeOf words = 0x13))
            ∧ s.takeSync r word =
              ((State.syncWatch { s with syncRead := none } r.watch word).report .ok []).issueSync) := by
  simp only [State.takeSync]
  split
  · exact .inl rfl
  · next hkeep =>
    simp only [Bool.or_eq_true, bne_iff_ne, ne_eq, not_or, Bool.not_eq_true, not_not] at hkeep
    obtain ⟨hstale, hsync⟩ := hkeep
    refine .inr ⟨hstale, hsync, ?_⟩
    split
    · next hwaits =>
      right
      obtain ⟨words, hcmd, hcode, -⟩ := (armCommandWaits_iff _ _).mp hwaits
      rw [watchUnitKeeps_syncWatch { s with syncRead := none } r.watch word] at hcmd
      exact ⟨⟨words, hcmd, hcode⟩, rfl⟩
    · exact .inl rfl

theorem takeSync_eq (s : State) (r : SyncRead) (word : Word) :
    s.takeSync r word =
      { s with
        watches := (s.takeSync r word).watches, queue := (s.takeSync r word).queue
        cause := (s.takeSync r word).cause, notice := (s.takeSync r word).notice
        syncRead := (s.takeSync r word).syncRead, cmd := (s.takeSync r word).cmd } := by
  have hsync := watchUnitKeeps_syncWatch { s with syncRead := none } r.watch word
  unfold WatchUnitKeeps at hsync
  obtain h | ⟨-, -, h | ⟨-, h⟩⟩ := takeSync_cases s r word
  · rw [h, issueSync_eq]
  · rw [h, issueSync_eq, hsync]
  · rw [h, issueSync_eq, hsync]
    rfl

/-! ### The timer unit -/

/-- `t` is `s` but for what an expiry may change. -/
def TimerUnitKeeps (s t : State) : Prop :=
  t = { s with timers := t.timers, queue := t.queue, cause := t.cause, beatOut := t.beatOut }

theorem TimerUnitKeeps.trans {s t u : State} (hst : TimerUnitKeeps s t) (htu : TimerUnitKeeps t u) :
    TimerUnitKeeps s u := by
  unfold TimerUnitKeeps at hst htu ⊢
  refine htu.trans ?_
  rw [hst]

theorem timerUnitKeeps_foldExpire (l : List (Fin 8)) (s : State) :
    TimerUnitKeeps s (l.foldl (fun s t => if (s.timer t).expiryDue then s.expire t else s) s) := by
  induction l generalizing s with
  | nil => rfl
  | cons k rest ih =>
    have hone : TimerUnitKeeps s (if (s.timer k).expiryDue then s.expire k else s) := by split <;> rfl
    exact hone.trans (ih _)

theorem settleTimers_eq (s : State) :
    s.settleTimers =
      { s with
        timers := s.settleTimers.timers, queue := s.settleTimers.queue, cause := s.settleTimers.cause
        beatOut := s.settleTimers.beatOut } :=
  timerUnitKeeps_foldExpire _ s

theorem clockEvent_eq (s : State) (c : Clock) :
    s.clockEvent c =
      { s with
        timers := (s.clockEvent c).timers, queue := (s.clockEvent c).queue, cause := (s.clockEvent c).cause
        beatOut := (s.clockEvent c).beatOut } := by
  simp only [State.clockEvent]
  rw [settleTimers_eq]

/-! ### The control-page unit -/

theorem takeTurn_eq (s : State) (e : SnoopWrite) :
    s.takeTurn e =
      { s with
        timers := (s.takeTurn e).timers, queue := (s.takeTurn e).queue, cause := (s.takeTurn e).cause
        beatOut := (s.takeTurn e).beatOut
        page := { s.page with turn := mergeLanes e.lanes s.page.turn e.data } } := by
  simp only [State.takeTurn]
  split
  · rfl
  · rw [clockEvent_eq]

theorem compareIndexes_eq (s : State) : s.compareIndexes = { s with cmd := s.compareIndexes.cmd } := by
  unfold State.compareIndexes
  split <;> rfl

/-- R175: a produce value below 32 is accepted, and an IDLE command unit compares; another one is refused. -/
theorem decideProduce_cases (s : State) (v : Word) :
    s.decideProduce v = s.raise causeRingFault
      ∨ v.toNat < 32 ∧ (s.decideProduce v = { s with page := { s.page with produce := v.toNat } }
        ∨ s.cmd = .idle
          ∧ s.decideProduce v = State.compareIndexes { s with page := { s.page with produce := v.toNat } }) := by
  by_cases hv : v.toNat < 32
  · refine .inr ⟨hv, ?_⟩
    by_cases hcmd : s.cmd = .idle
    · exact .inr ⟨hcmd, decideProduce_of_idle hv hcmd⟩
    · exact .inl (decideProduce_of_busy hv hcmd)
  · exact .inl (decideProduce_refused (by omega))

/-- R190: a consume value of the ring is accepted, and the ring is examined; another one is refused. -/
theorem decideConsume_cases (s : State) (v : Word) :
    s.decideConsume v = s.raise causeRingFault
      ∨ v.toNat < s.notice.size
        ∧ s.decideConsume v = State.examineRing { s with page := { s.page with consume := v.toNat } } := by
  by_cases hv : s.notice.ringSet = true ∧ v.toNat < s.notice.size
  · exact .inr ⟨hv.2, decideConsume_accepted hv.1 hv.2⟩
  · refine .inl (decideConsume_refused ?_)
    rw [not_and_or] at hv
    simpa using hv

theorem examineRing_eq (s : State) : s.examineRing = { s with notice := s.examineRing.notice } := by
  obtain h | ⟨_, _, -, -, -, h⟩ := examineRing_cases s <;> rw [h]

theorem decideProduce_eq (s : State) (v : Word) :
    s.decideProduce v =
      { s with
        cause := (s.decideProduce v).cause, cmd := (s.decideProduce v).cmd
        page := { s.page with produce := (s.decideProduce v).page.produce } } := by
  obtain h | ⟨-, h | ⟨-, h⟩⟩ := decideProduce_cases s v
  · rw [h]
    rfl
  · rw [h]
  · rw [h, compareIndexes_eq]

theorem decideConsume_eq (s : State) (v : Word) :
    s.decideConsume v =
      { s with
        cause := (s.decideConsume v).cause, notice := (s.decideConsume v).notice
        page := { s.page with consume := (s.decideConsume v).page.consume } } := by
  obtain h | ⟨-, h⟩ := decideConsume_cases s v
  · rw [h]
    rfl
  · rw [h, examineRing_eq]

theorem takeProduceIndex_eq (s : State) (e : SnoopWrite) :
    s.takeProduceIndex e =
      { s with
        cause := (s.takeProduceIndex e).cause, cmd := (s.takeProduceIndex e).cmd
        page :=
          { s.page with
            produceImage := mergeLanes e.lanes s.page.produceImage e.data
            produce := (s.takeProduceIndex e).page.produce } } := by
  simp only [State.takeProduceIndex]
  split
  · rfl
  · rw [decideProduce_eq]

theorem takeConsumeIndex_eq (s : State) (e : SnoopWrite) :
    s.takeConsumeIndex e =
      { s with
        cause := (s.takeConsumeIndex e).cause, notice := (s.takeConsumeIndex e).notice
        page :=
          { s.page with
            consumeImage := mergeLanes e.lanes s.page.consumeImage e.data
            consume := (s.takeConsumeIndex e).page.consume } } := by
  simp only [State.takeConsumeIndex]
  split
  · rfl
  · rw [decideConsume_eq]

/-! ### The command unit and the notice writer -/

theorem writerFree_eq (s : State) :
    s.writerFree =
      { s with notice := s.writerFree.notice, page := { s.page with consume := s.writerFree.page.consume } } := by
  obtain h | ⟨c, -, h⟩ := writerFree_cases s
  · rw [h, examineRing_eq]
  · rw [h]
    rfl

theorem installRegion_eq (s : State) :
    s.installRegion =
      { s with regions := s.installRegion.regions, pendingRegion := s.installRegion.pendingRegion } := by
  unfold State.installRegion
  split <;> rfl

theorem publishElement_eq (s : State) :
    s.publishElement =
      { s.partWrite (s.pageAddr noticeProduceOff) (BitVec.ofNat 32 s.notice.produce) with
        cause := (s.raise causeNotice).cause
        notice := s.publishElement.notice
        page := { s.page with consume := s.publishElement.page.consume } } := by
  simp only [State.publishElement]
  rw [writerFree_eq]
  rfl

theorem writeConsume_eq (s : State) :
    s.writeConsume =
      { s.partWrite (s.pageAddr consumeOff) (BitVec.ofNat 32 s.consumeIndex) with cmd := s.writeConsume.cmd } := by
  simp only [State.writeConsume]
  rw [compareIndexes_eq]

theorem writeStatus_eq (s : State) (st : Status) :
    s.writeStatus st =
      { s.partWrite (s.slotAddr 1) (statusWord st) with
        regions := s.installRegion.regions, pendingRegion := s.installRegion.pendingRegion
        cause := (s.raise causeCmdDone).cause
        consumeIndex := (s.consumeIndex + 1) % 32, cmd := .advancing } := by
  simp only [State.writeStatus]
  rw [installRegion_eq]
  rfl

/-! ### The engine -/

theorem EngineKeeps.eq {s t : State} (h : EngineKeeps s t) :
    t =
      { s with
        quests := t.quests, timers := t.timers, queue := t.queue, cause := t.cause, beatOut := t.beatOut
        notice := t.notice, work := t.work, effectUnit := t.effectUnit, cmd := t.cmd } := by
  unfold EngineKeeps at h
  calc
    t = { t.outsideEngine with
          quests := t.quests, timers := t.timers, queue := t.queue, cause := t.cause, beatOut := t.beatOut
          notice := t.notice, work := t.work, effectUnit := t.effectUnit, cmd := t.cmd } := rfl
    _ = { s.outsideEngine with
          quests := t.quests, timers := t.timers, queue := t.queue, cause := t.cause, beatOut := t.beatOut
          notice := t.notice, work := t.work, effectUnit := t.effectUnit, cmd := t.cmd } := by rw [h]

theorem keeps_idleUnit (s : State) : EngineKeeps s { s with effectUnit := .idle } := rfl

theorem keeps_timers (s : State) (ts : Vector Timer 8) : EngineKeeps s { s with timers := ts } := rfl

theorem keeps_clockEvent (s : State) (c : Clock) : EngineKeeps s (s.clockEvent c) :=
  (keeps_settleTimers s).trans (keeps_timers s.settleTimers _)

theorem keeps_denyEffect (s : State) (j : EffectJob) :
    EngineKeeps (s.recordFault .effect .write j.record.addr) (s.denyEffect j) :=
  (keeps_idleUnit _).trans (keeps_effectReported _ _)

theorem keeps_startQuest (s : State) (q : Fin 32) :
    EngineKeeps s (State.runEngine (s.takeCommand.beginQuest (commandWork 0x23 s.turnPlayer) q 0)) :=
  (after_beginQuest (keeps_takeCommand s) _ _ _).trans (keeps_runEngine _)

theorem keeps_resumeQuest (s : State) (q : Fin 32) :
    EngineKeeps s (s.takeCommand.updQuest q (fun c => { c with state := .active, late := false })) :=
  after_updQuest (keeps_takeCommand s) _ _

theorem keeps_effectSettled (s : State) (r : EffectResult) :
    EngineKeeps s (State.effectReported { s.settleTimers with effectUnit := .idle } r) := by
  have hidle := (keeps_settleTimers s).trans (keeps_idleUnit s.settleTimers)
  exact hidle.trans (keeps_effectReported _ r)

/-! ### The warm reset -/

theorem resetRegions_eq (s : State) :
    s.resetRegions = { s with regions := s.resetRegions.regions, pendingRegion := s.resetRegions.pendingRegion } := by
  unfold State.resetRegions
  split
  · rw [installRegion_eq]
  · rfl

theorem warmReset_eq (s : State) :
    s.warmReset =
      { s with
        regions := s.resetRegions.regions, pendingRegion := s.resetRegions.pendingRegion
        gameReset := true
        mpa := { s.mpa with port := s.resetGrant }
        fault := s.resetFault
        cause := s.cause.warmReset s.resetFault
        syncRead := s.warmReset.syncRead, watches := s.warmReset.watches, watchReset := s.warmReset.watchReset
        queue := []
        quests := s.quests.map Quest.warmReset
        work := none
        effectUnit := .idle
        timers := s.timers.map Timer.warmReset
        beatOut := false
        consumeIndex := s.page.produce
        cmd := .advancing
        notice := s.notice.warmReset } := by
  simp only [State.warmReset]
  rw [placeWatchReset_eq, resetRegions_eq]

end Sys2Proof.Machine
end

section
/-! PROOFS. Memory: the one word that a command stores to, and the canonical form that every step keeps. -/

namespace Sys2Proof.Machine

open Sys2Proof

theorem irTarget_of_ir {s : State} {a : IRAccess} (own : Option Nat) (h : s.mpa.port = some (.ir a)) :
    s.irTarget a own = own.map (fun n => (n, Lanes.all)) := by
  simp [State.irTarget, h]

theorem irTarget_of_orphan {s : State} {a : IRAccess} {op : OrphanOp} (own : Option Nat)
    (h : s.mpa.port = some (.orphan a op)) : s.irTarget a own = (s.orphanTarget op).map (fun n => (n, Lanes.all)) := by
  simp [State.irTarget, h]

/-- A withdrawn grant that has a word left to write stores to it. -/
theorem storesTo_step_of_orphan {s : State} {a : IRAccess} {op : OrphanOp} {n : Nat} (ha : a.withdrawn = true)
    (h : s.mpa.port = some (.orphan a op)) (hop : s.orphanTarget op = some n) :
    s.storesTo a.step = some (n, Lanes.all) := by
  have htarget : ∀ own, s.irTarget a own = some (n, Lanes.all) := fun own => by
    rw [irTarget_of_orphan own h, hop]
    rfl
  cases a
  case syncRead | produceWrite | ringIndexWrite => cases ha
  all_goals exact htarget _

section
variable {s : State} {m : Master} {a : Access} (h : s.servesPermitted m a) (hdir : a.dir = .write)
include h hdir

theorem masterTarget_of_passes (hpass : s.interception m (wordAddrOf a) = .passes) :
    s.masterTarget false = some (wordAddrOf a, lanesOf a) := by
  obtain ⟨-, -, hok⟩ := id h
  simp [State.masterTarget, grantedAccess_of_servesPermitted h, hdir, hok, hpass]

theorem masterTarget_of_clears (hclear : s.interception m (wordAddrOf a) = .clears) :
    s.masterTarget true = some (s.pageAddr causeOff, Lanes.all) := by
  obtain ⟨-, -, hok⟩ := id h
  simp [State.masterTarget, grantedAccess_of_servesPermitted h, hdir, hok, hclear]

end

/-- `t` has the memory of `s`, but for the word that the command stores to. -/
def StoresOnly (s : State) (c : Instr) (t : State) : Prop :=
  t.mem = s.mem ∨ ∃ a l w, t.mem = writeLanes s.mem a l w ∧ s.storesTo c = some (a, l)

theorem StoresOnly.word {s t : State} {c : Instr} {n : Nat} (w : Word) (hmem : t.mem = writeWord s.mem n w)
    (hto : s.storesTo c = some (n, Lanes.all)) : StoresOnly s c t := .inr ⟨n, Lanes.all, w, hmem, hto⟩

theorem EngineKeeps.storesOnly {s u t : State} {c : Instr} (h : EngineKeeps u t) (hu : u.mem = s.mem) :
    StoresOnly s c t := .inl (h.mem_eq.trans hu)

theorem Effect.storesOnly {s u : State} {c : Instr} (h : Effect s c u) : StoresOnly s c u := by
  cases h with
  | zeroWrite h => exact .word 0 rfl (by simp only [State.storesTo, if_pos h])
  | store m a h hdir hpass =>
    exact .inr ⟨_, _, a.data, by simp [State.masterStore], masterTarget_of_passes h hdir hpass⟩
  | clear a h hdir hclear =>
    exact .word ((s.cause.working &&& ~~~(clearSet a)).setWidth 32) (by simp [State.clearCauses])
      (masterTarget_of_clears h hdir hclear)
  | grantEffect j hport hunit hok =>
    exact .word (n := j.record.addr) (j.newWord (readWord s.mem j.record.addr)) rfl
      (by simp [State.storesTo, irTarget_of_ir _ hport, hunit, hok])
  | orphanWrite a n w ha hport => exact .word w rfl (storesTo_step_of_orphan ha hport rfl)
  | orphanEffect a j ha hport hok =>
    exact .word (n := j.record.addr) (j.newWord (readWord s.mem j.record.addr)) rfl
      (storesTo_step_of_orphan ha hport (by simp [State.orphanTarget, hok]))
  | faultWord hport => exact .word s.fault.word rfl (irTarget_of_ir _ hport)
  | causeWord hport => exact .word ((s.cause.working ||| s.cause.arrivals).setWidth 32) rfl (irTarget_of_ir _ hport)
  | vectorWord hport => exact .word (BitVec.ofNat 32 s.vectorNow) rfl (irTarget_of_ir _ hport)
  | resetCauseWord hport hpub =>
    exact .word (n := s.pageAddr causeOff) 0 rfl (by simp [State.storesTo, irTarget_of_ir _ hport, hpub])
  | resetVectorWord hport hpub =>
    exact .word (n := s.pageAddr vectorOff) 0 rfl (by simp [State.storesTo, irTarget_of_ir _ hport, hpub])
  | elementWord k hport hwriter | lastElementWord k hport hwriter =>
    exact .word (n := s.elementAddr k) (s.elementWord k) rfl
      (by simp [State.storesTo, irTarget_of_ir _ hport, hwriter])
  | publishElement hport =>
    exact .word (n := s.pageAddr noticeProduceOff) (BitVec.ofNat 32 s.notice.produce)
      (by rw [publishElement_eq]; rfl) (by simp [State.storesTo, hport])
  | ringProduceWord hport hfirst =>
    exact .word (n := s.pageAddr noticeProduceOff) 0 rfl (by simp [State.storesTo, hport, hfirst])
  | ringConsumeWord hport hsecond | ringAnswered _ hport hsecond =>
    exact .word (n := s.pageAddr noticeConsumeOff) 0 (by rw [writerFree_eq]; rfl)
      (by simp [State.storesTo, hport, hsecond])
  | resultWord st next r rest hport hcmd =>
    exact .word (n := s.slotAddr next) r rfl (by simp [State.storesTo, irTarget_of_ir _ hport, hcmd])
  | statusWord st next rs hport hcmd =>
    exact .word (n := s.slotAddr 1) (Machine.statusWord st) (by rw [writeStatus_eq]; rfl)
      (by simp [State.storesTo, irTarget_of_ir _ hport, hcmd])
  | consumeIndex hport =>
    exact .word (n := s.pageAddr consumeOff) (BitVec.ofNat 32 s.consumeIndex) (by rw [writeConsume_eq]; rfl)
      (irTarget_of_ir _ hport)
  | warmReset => exact .inl (by rw [warmReset_eq])
  | takeWrite e => exact .inl (by rw [advanceWatchReset_mem, takeWrite_eq, takeFor_mem])
  | takeSync r word => exact .inl (by rw [advanceWatchReset_mem, takeSync_eq, takeFor_mem])
  | takeTurn e => exact .inl (by rw [takeTurn_eq]; rfl)
  | takeProduceIndex e => exact .inl (by rw [takeProduceIndex_eq]; rfl)
  | takeConsumeIndex e => exact .inl (by rw [takeConsumeIndex_eq]; rfl)
  | beat => exact .inl (by rw [clockEvent_eq])
  | timerAnswer | timerSet => exact .inl (by simp only [report_mem, updTimer_mem]; rw [settleTimers_eq])
  | fetch words => exact .inl (by rw [fetched_eq]; rfl)
  | disarm words w => exact .inl (by rw [freeWatch_eq]; rfl)
  | startQuest words q => exact (keeps_startQuest s q).storesOnly rfl
  | resumeQuest words q => exact (keeps_resumeQuest s q).storesOnly rfl
  | resumeLate words q => exact ((keeps_resumeQuest s q).trans (keeps_beginWork _ _ _ _ _ _)).storesOnly rfl
  | abandonQuest words q => exact ((keeps_takeCommand s).trans (keeps_beginWork _ _ _ _ _ _)).storesOnly rfl
  | engineGoesOn => exact (keeps_runEngine s).storesOnly rfl
  | takeWatchEntry v writer depth rest => exact (keeps_beginWork _ _ _ _ _ _).storesOnly rfl
  | timeoutExpiry k q rest => exact (keeps_beginWork _ _ _ _ _ _).storesOnly rfl
  | denyEffect j => exact (keeps_denyEffect _ j).storesOnly rfl
  | effectSettled old new => exact (keeps_effectSettled s _).storesOnly rfl
  | request | read | drop | arm | resync | installRing | holdRing => exact .inl (by simp [State.installRing])
  | refuse => exact .inl (by simp [State.refuseAccess])
  | _ => exact .inl rfl

/-- A property of memory alone is kept by the reaction. -/
theorem Does.storesOnly {s t : State} {c : Instr} (h : Does s c t) : StoresOnly s c t := by
  cases h with
  | reacts h =>
    unfold StoresOnly
    rw [react_mem]
    exact h.storesOnly
  | _ => exact .inl rfl

/-- Settles O51: a step writes at most the lanes of one word, which keeps the canonical form. -/
theorem stepsKeepMemoryCanonical : Obligations.StepsKeepMemoryCanonical := by
  intro s t h hstep
  unfold step at hstep
  split at hstep
  · cases hstep
    exact h
  · unfold MemoryLaw
    obtain hsame | ⟨a, l, w, hmem, -⟩ := (does_of_exec hstep).storesOnly
    · rw [hsame]
      exact h
    · rw [hmem]
      exact wf_writeLanes _ h _ _ _

theorem readByte_writeLanes_apart (m : Memory) (a : Nat) (l : Lanes) (w : Word) (x : Nat)
    (h : ∀ i, i < 4 → l.has i = true → x ≠ a + i) : readByte (writeLanes m a l w) x = readByte m x := by
  have hlane : ∀ (m : Memory) (i : Nat) (on : Bool) (v : Byte), i < 4 → l.has i = on →
      readByte (writeLane m (a + i) on v) x = readByte m x := by
    intro m i on v hi hon
    cases on with
    | false => rfl
    | true => exact readByte_writeLane_of_ne _ _ _ _ _ (h i hi hon)
  unfold writeLanes
  rw [hlane _ 3 l.l3 _ (by omega) rfl, hlane _ 2 l.l2 _ (by omega) rfl, hlane _ 1 l.l1 _ (by omega) rfl]
  exact hlane _ 0 l.l0 _ (by omega) rfl

/-- Settles O5: what a command stores to is the word of its effect. -/
theorem commandsStoreOnlyTheirLanes : Obligations.CommandsStoreOnlyTheirLanes := by
  intro c s t hexec x hapart
  obtain hsame | ⟨a, l, w, hmem, hto⟩ := (does_of_exec hexec).storesOnly
  · rw [hsame]
  · rw [hmem]
    exact readByte_writeLanes_apart _ _ _ _ _ (hapart a l hto)

theorem laneByte_mergeLanes_of_has {l : Lanes} {i : Nat} (hi : i < 4) (hon : l.has i = true) (old new : Word) :
    laneByte (mergeLanes l old new) i = laneByte new i := by
  refine laneByte_merge_of_mask l old new i true (fun j hj => ?_) hi
  rw [mask_getLsbD l _ (by omega), show (8 * i + j) / 8 = i by omega, hon]

/-- Settles O4. -/
theorem memoryReadsBackWrites : Obligations.MemoryReadsBackWrites := by
  intro m a l w hm
  refine ⟨wf_writeLanes m hm a l w, readByte_writeLanes_apart m a l w, fun i hi hon => ?_,
    readWord_writeLanes_self m hm a l w⟩
  rw [← laneByte_readWord _ a i hi, readWord_writeLanes_self m hm, laneByte_mergeLanes_of_has hi hon]

end Sys2Proof.Machine
end

section
/-! PROOFS. The interrupt: the highest cause of a set, and the law of INT and the vector, which only a publication's end and
the warm reset touch. -/

namespace Sys2Proof.Machine

open Sys2Proof

/-! ### The highest cause of a set -/

/-- The number of the last of the first `n` causes that a predicate holds of, or 0. -/
def lastCause (p : Nat → Bool) (n : Nat) : Nat := (List.range n).foldl (fun acc i => if p i then i + 1 else acc) 0

theorem highestCause_eq_lastCause (c : CauseSet) : highestCause c = lastCause c.getLsbD 15 := rfl

theorem lastCause_succ (p : Nat → Bool) (n : Nat) :
    lastCause p (n + 1) = if p n then n + 1 else lastCause p n := by
  simp [lastCause, List.range_succ]

theorem lastCause_le (p : Nat → Bool) (n : Nat) : lastCause p n ≤ n := by
  induction n with
  | zero => exact Nat.le_refl 0
  | succ n ih =>
    rw [lastCause_succ]
    split <;> omega

theorem lastCause_of_none {p : Nat → Bool} {n : Nat} (h : ∀ i, i < n → p i = false) : lastCause p n = 0 := by
  induction n with
  | zero => rfl
  | succ n ih =>
    rw [lastCause_succ, h n (by omega)]
    exact ih fun i hi => h i (by omega)

theorem lastCause_of_last {p : Nat → Bool} {n k : Nat} (hk : k < n) (hp : p k = true)
    (h : ∀ i, k < i → i < n → p i = false) : lastCause p n = k + 1 := by
  induction n with
  | zero => cases hk
  | succ n ih =>
    rw [lastCause_succ]
    by_cases hlast : k = n
    · rw [← hlast, if_pos hp]
    · rw [h n (by omega) (by omega)]
      exact ih (by omega) fun i hlow hi => h i hlow (by omega)

theorem highestCause_le (c : CauseSet) : highestCause c ≤ 15 := lastCause_le _ 15

theorem highestCause_of_none {c : CauseSet} (h : ∀ i, i < 15 → c.getLsbD i = false) : highestCause c = 0 :=
  lastCause_of_none h

theorem highestCause_of_highest {c : CauseSet} {k : Nat} (hk : k < 15) (hp : c.getLsbD k = true)
    (h : ∀ i, k < i → i < 15 → c.getLsbD i = false) : highestCause c = k + 1 := lastCause_of_last hk hp h

theorem highestCause_zero : highestCause 0 = 0 := highestCause_of_none fun i _ => by simp

/-! ### Properties that the watch unit and the timer unit keep -/

/-- A property that the operations of a firing keep. -/
structure WatchStable (P : State → Prop) : Prop where
  watch : ∀ {s : State} (w : Fin 64) (f : Watch → Watch), P s → P (s.updWatch w f)
  queue : ∀ {s : State} (l : List Trigger), P s → P { s with queue := l }
  raise : ∀ {s : State} (c : CauseSet), P s → P (s.raise c)
  notice : ∀ {s : State} (n : Notice), P s → P (s.handNotice n)

namespace WatchStable

variable {P : State → Prop} (hP : WatchStable P) {s : State}
include hP

theorem fireWatch (w : Fin 64) (writer : Writer) (depth : Nat) (before after : Word) (h : P s) :
    P (s.fireWatch w writer depth before after) := by
  have hoffer : P (s.offerWatch w writer depth) := by
    unfold State.offerWatch
    split
    · exact hP.queue _ h
    · exact hP.watch _ _ (hP.raise _ h)
    · exact hP.watch _ _ (hP.raise _ h)
  simp only [State.fireWatch]
  split
  · exact hP.notice _ hoffer
  · exact hoffer

theorem watchTakes (e : SnoopWrite) (w : Fin 64) (h : P s) : P (s.watchTakes e w) := by
  simp only [State.watchTakes]
  split
  · split
    · exact hP.fireWatch _ _ _ _ _ (hP.watch _ _ h)
    · exact hP.watch _ _ h
  · exact h

theorem takeWrite (e : SnoopWrite) (h : P s) : P (s.takeWrite e) := by
  unfold State.takeWrite
  generalize List.finRange 64 = l
  induction l generalizing s with
  | nil => exact h
  | cons w rest ih => exact ih (hP.watchTakes e w h)

theorem syncWatch (w : Fin 64) (word : Word) (h : P s) : P (s.syncWatch w word) := by
  simp only [State.syncWatch]
  split
  · exact hP.fireWatch _ _ _ _ _ (hP.watch _ _ h)
  · exact hP.watch _ _ h

end WatchStable

/-! ### The interrupt law -/

/-- The law rests on four fields of the cause unit. -/
theorem InterruptLaw.congr {s t : State} (h : InterruptLaw s) (hint : t.cause.int = s.cause.int)
    (hvector : t.cause.vector = s.cause.vector) (hpending : t.cause.pendingSet = s.cause.pendingSet)
    (henable : t.cause.enableSet = s.cause.enableSet) : InterruptLaw t := by
  unfold InterruptLaw
  rw [hint, hvector, hpending, henable]
  exact h

theorem InterruptLaw.ofCause {s t : State} (h : InterruptLaw s) (hcause : t.cause = s.cause) : InterruptLaw t := by
  unfold InterruptLaw
  rw [hcause]
  exact h

theorem InterruptLaw.handNotice {s : State} (n : Notice) (h : InterruptLaw s) : InterruptLaw (s.handNotice n) := by
  obtain hlost | ⟨-, hheld⟩ := handNotice_cases s n
  · rw [hlost]
    exact h
  · rw [hheld, examineRing_eq]
    exact h

theorem watchStable_interruptLaw : WatchStable InterruptLaw where
  watch _ _ h := h
  queue _ h := h
  raise _ h := h
  notice n h := h.handNotice n

theorem engineStable_interruptLaw : EngineStable InterruptLaw where
  quest _ _ h := h
  timer _ _ h := h
  expire _ h := h
  notice n h := h.handNotice n
  unit _ _ _ h := h
  work _ h := h
  answer _ _ h := h

theorem interruptLaw_of_nothing_pending {s : State} (hint : s.cause.int = false) (hvector : s.cause.vector = 0)
    (hpending : s.cause.pendingSet = 0) : InterruptLaw s := by
  unfold InterruptLaw
  have hnone : (0 : CauseSet) &&& s.cause.enableSet = 0 := BitVec.zero_and
  rw [hint, hvector, hpending, hnone, highestCause_zero]
  exact ⟨rfl, rfl⟩

/-- R169 step 4, R171: INT and the vector settle on what the working set and the enable set then share. -/
theorem interruptLaw_publishVector (s : State) : InterruptLaw s.publishVector := by
  refine ⟨rfl, ?_⟩
  change (BitVec.ofNat 4 (highestCause (s.cause.working &&& s.cause.handed))).toNat = _
  have hle := highestCause_le (s.cause.working &&& s.cause.handed)
  rw [BitVec.toNat_ofNat]
  exact Nat.mod_eq_of_lt (by omega)

theorem interruptLaw_clockEvent (c : Clock) {s : State} (h : InterruptLaw s) : InterruptLaw (s.clockEvent c) :=
  (engineStable_interruptLaw.settleTimers h).ofCause (by simp only [State.clockEvent])

theorem interruptLaw_takeTurn (e : SnoopWrite) {s : State} (h : InterruptLaw s) : InterruptLaw (s.takeTurn e) := by
  simp only [State.takeTurn]
  split
  · exact h
  · exact (interruptLaw_clockEvent .turn h).ofCause (by with_reducible rfl)

theorem interruptLaw_takeProduceIndex (e : SnoopWrite) {s : State} (h : InterruptLaw s) :
    InterruptLaw (s.takeProduceIndex e) := by
  simp only [State.takeProduceIndex]
  split
  · exact h
  · obtain hd | ⟨-, hd | ⟨-, hd⟩⟩ := decideProduce_cases
      { s with page := { s.page with produceImage := mergeLanes e.lanes s.page.produceImage e.data } }
      (mergeLanes e.lanes s.page.produceImage e.data)
    · rw [hd]
      exact h
    · rw [hd]
      exact h
    · rw [hd, compareIndexes_eq]
      exact h

theorem interruptLaw_takeConsumeIndex (e : SnoopWrite) {s : State} (h : InterruptLaw s) :
    InterruptLaw (s.takeConsumeIndex e) := by
  simp only [State.takeConsumeIndex]
  split
  · exact h
  · obtain hd | ⟨-, hd⟩ := decideConsume_cases
      { s with page := { s.page with consumeImage := mergeLanes e.lanes s.page.consumeImage e.data } }
      (mergeLanes e.lanes s.page.consumeImage e.data)
    · rw [hd]
      exact h
    · rw [hd, examineRing_eq]
      exact h

theorem interruptLaw_takeSync (r : SyncRead) (word : Word) {s : State} (h : InterruptLaw s) :
    InterruptLaw (s.takeSync r word) := by
  have hsync : InterruptLaw (State.syncWatch { s with syncRead := none } r.watch word) :=
    watchStable_interruptLaw.syncWatch _ _ h
  obtain ht | ⟨-, -, ht | ⟨-, ht⟩⟩ := takeSync_cases s r word
  · rw [ht, issueSync_eq]
    exact h
  · exact hsync.ofCause (by rw [ht, issueSync_cause])
  · exact hsync.ofCause (by rw [ht, issueSync_cause]; rfl)

theorem interruptLaw_beginQuest (w : WorkItem) (q : Fin 32) (d : Nat) {s : State} (h : InterruptLaw s) :
    InterruptLaw (s.beginQuest w q d) :=
  engineStable_interruptLaw.ofPart (isPart_beginQuest _ _ _ _) h

theorem InterruptLaw.effect {s u : State} {c : Instr} (h : InterruptLaw s) (heff : Effect s c u) : InterruptLaw u := by
  have settled := engineStable_interruptLaw.settleTimers h
  have taken : InterruptLaw s.takeCommand := h.ofCause (by simp)
  cases heff with
  | warmReset =>
    rw [warmReset_eq]
    exact interruptLaw_of_nothing_pending rfl rfl rfl
  | vectorWord => exact interruptLaw_publishVector _
  | request | read | drop => exact h.ofCause (by simp)
  | refuse _ m a =>
    have hfault : InterruptLaw (s.recordFault (masterWriter m) a.dir (wordAddrOf a)) := h
    exact hfault.ofCause (by simp [State.refuseAccess])
  | store => exact h.ofCause (by simp [State.masterStore])
  | clear a =>
    have hcause : (s.clearCauses a).cause =
        { s.cause with
          working := s.cause.working &&& ~~~(clearSet a), arrivals := s.cause.arrivals &&& ~~~(clearSet a) } := by
      simp [State.clearCauses]
    exact h.congr (by rw [hcause]) (by rw [hcause]) (by rw [hcause]) (by rw [hcause])
  | takeWrite e => exact (watchStable_interruptLaw.takeWrite e (s := s.takeFor .watch) h).ofCause (by simp)
  | takeSync r word => exact (interruptLaw_takeSync r word (s := s.takeFor .watch) h).ofCause (by simp)
  | takeTurn e => exact interruptLaw_takeTurn e (s := s.takeFor .page) h
  | takeProduceIndex e => exact interruptLaw_takeProduceIndex e (s := s.takeFor .page) h
  | takeConsumeIndex e => exact interruptLaw_takeConsumeIndex e (s := s.takeFor .page) h
  | beat => exact interruptLaw_clockEvent .beat h
  | timerAnswer | timerSet => exact settled.ofCause (by simp)
  | arm | resync | installRing | holdRing => exact h.ofCause (by simp [State.installRing])
  | disarm words w => exact h.ofCause (by rw [freeWatch_eq]; rfl)
  | startQuest => exact engineStable_interruptLaw.runEngine (interruptLaw_beginQuest _ _ _ taken)
  | resumeQuest => exact taken
  | resumeLate => exact engineStable_interruptLaw.beginWork _ _ _ _ _ (engineStable_interruptLaw.quest _ _ taken)
  | abandonQuest => exact engineStable_interruptLaw.beginWork _ _ _ _ _ taken
  | engineGoesOn => exact engineStable_interruptLaw.runEngine h
  | takeWatchEntry | timeoutExpiry => exact engineStable_interruptLaw.beginWork _ _ _ _ _ h
  | denyEffect j => exact engineStable_interruptLaw.effectReported _ h
  | effectSettled old new => exact engineStable_interruptLaw.effectReported _ (settled.ofCause (by with_reducible rfl))
  | publishElement =>
    rw [publishElement_eq]
    exact h
  | ringConsumeWord | ringAnswered =>
    rw [writerFree_eq]
    exact h
  | fetch =>
    rw [fetched_eq]
    exact h
  | statusWord =>
    rw [writeStatus_eq]
    exact h
  | consumeIndex =>
    rw [writeConsume_eq]
    exact h
  | _ => exact h

theorem keptByEffects_interruptLaw : KeptByEffects InterruptLaw where
  pending _ h := h
  powerOn _ _ _ := interruptLaw_of_nothing_pending rfl rfl rfl
  deassert h := h
  react h := h.congr (react_int _) (react_vector _) (react_pendingSet _) (react_enableSet _)
  effect h heff := h.effect heff

/-- Settles O55: INT and the vector change at a publication's third write, which makes them so, and at the warm reset. -/
theorem stepsKeepTheInterruptLaw : Obligations.StepsKeepTheInterruptLaw :=
  fun _ _ h hstep => keptByEffects_interruptLaw.step h hstep

end Sys2Proof.Machine
end

section
/-! PROOFS. The rings: the hold queue of the notice writer and the indexes of both rings. -/

namespace Sys2Proof.Machine

open Sys2Proof

theorem RingLaw.congr {s t : State} (h : RingLaw s) (hnotice : t.notice = s.notice)
    (hconsume : t.consumeIndex = s.consumeIndex) (hpage : t.page = s.page) : RingLaw t := by
  unfold RingLaw
  rw [hnotice, hconsume, hpage]
  exact h

theorem RingLaw.examineRing {s : State} (h : RingLaw s) : RingLaw s.examineRing := by
  obtain hsame | ⟨n, rest, -, hhold, -, htaken⟩ := examineRing_cases s
  · rwa [hsame]
  · rw [htaken]
    obtain ⟨hlen, hrest⟩ := h
    refine ⟨?_, hrest⟩
    rw [hhold, List.length_cons] at hlen
    exact Nat.le_of_succ_le hlen

theorem RingLaw.handNotice {s : State} (n : Notice) (h : RingLaw s) : RingLaw (s.handNotice n) := by
  obtain hlost | ⟨hroom, hheld⟩ := handNotice_cases s n
  · rw [hlost]
    exact h
  · rw [hheld]
    obtain ⟨-, hrest⟩ := h
    refine RingLaw.examineRing ⟨?_, hrest⟩
    simpa using hroom

theorem watchStable_ringLaw : WatchStable RingLaw where
  watch _ _ h := h
  queue _ h := h
  raise _ h := h
  notice n h := h.handNotice n

theorem engineStable_ringLaw : EngineStable RingLaw where
  quest _ _ h := h
  timer _ _ h := h
  expire _ h := h
  notice n h := h.handNotice n
  unit _ _ _ h := h
  work _ h := h
  answer _ _ h := h

/-- R191: an installation of a lawful configuration. -/
theorem RingLaw.installRing {s : State} (h : RingLaw s) {base size : Nat} (hsize : ringSizeLawful size) :
    RingLaw (s.installRing base size) := by
  obtain ⟨hhold, hconsume, hproduce, -, -⟩ := h
  have hpos : 0 < size := by
    unfold ringSizeLawful at hsize
    omega
  refine ⟨hhold, hconsume, hproduce, fun _ => ⟨hsize, hpos, hpos⟩, fun c hc => ?_⟩
  cases hc

theorem RingLaw.writerFree {s : State} (h : RingLaw s) : RingLaw s.writerFree := by
  obtain hexamine | ⟨c, hpending, hinstall⟩ := writerFree_cases s
  · rw [hexamine]
    exact h.examineRing
  · rw [hinstall]
    obtain ⟨-, -, -, -, hconfig⟩ := id h
    exact h.installRing (hconfig c hpending)

theorem RingLaw.decideProduce {s : State} (h : RingLaw s) (v : Word) : RingLaw (s.decideProduce v) := by
  obtain ⟨hhold, hconsume, -, hring, hpending⟩ := id h
  obtain hrefused | ⟨hv, haccepted | ⟨-, hcompared⟩⟩ := decideProduce_cases s v
  · rw [hrefused]
    exact h
  · rw [haccepted]
    exact ⟨hhold, hconsume, hv, hring, hpending⟩
  · rw [hcompared, compareIndexes_eq]
    exact ⟨hhold, hconsume, hv, hring, hpending⟩

theorem RingLaw.decideConsume {s : State} (h : RingLaw s) (v : Word) : RingLaw (s.decideConsume v) := by
  obtain ⟨hhold, hconsume, hproduce, hring, hpending⟩ := id h
  obtain hrefused | ⟨hv, haccepted⟩ := decideConsume_cases s v
  · rw [hrefused]
    exact h
  · rw [haccepted]
    refine RingLaw.examineRing ⟨hhold, hconsume, hproduce, fun hset => ?_, hpending⟩
    obtain ⟨hsize, hin, -⟩ := hring hset
    exact ⟨hsize, hin, hv⟩

theorem RingLaw.takeSync {s : State} (h : RingLaw s) (r : SyncRead) (word : Word) : RingLaw (s.takeSync r word) := by
  have hsync : RingLaw (State.syncWatch { s with syncRead := none } r.watch word) :=
    watchStable_ringLaw.syncWatch _ _ h
  obtain ht | ⟨-, -, ht | ⟨-, ht⟩⟩ := takeSync_cases s r word
  · rw [ht, issueSync_eq]
    exact h
  · rw [ht, issueSync_eq]
    exact hsync
  · rw [ht, issueSync_eq]
    exact hsync

/-- R192: a warm reset keeps the ring as it is set. -/
theorem RingLaw.warmReset {s : State} (h : RingLaw s) : RingLaw s.warmReset := by
  obtain ⟨-, -, hproduce, hring, -⟩ := h
  have hnotice : s.notice.warmReset.hold = [] ∧ s.notice.warmReset.ringSet = s.notice.ringSet
      ∧ s.notice.warmReset.size = s.notice.size ∧ s.notice.warmReset.produce = s.notice.produce
      ∧ s.notice.warmReset.pendingConfig = none := by
    unfold NoticeWriter.warmReset
    split <;> exact ⟨rfl, rfl, rfl, rfl, rfl⟩
  obtain ⟨hhold, hset, hsize, hindex, hpending⟩ := hnotice
  rw [warmReset_eq]
  unfold RingLaw
  simp only [hhold, hset, hsize, hindex, hpending]
  exact ⟨Nat.zero_le _, hproduce, hproduce, hring, fun c hc => by cases hc⟩

theorem ringSizeLawful_of_accepted {s : State} {base size : Nat} (h : s.ringAccepted base size = true) :
    ringSizeLawful size := by
  unfold State.ringAccepted at h
  simp only [Bool.and_eq_true, decide_eq_true_eq] at h
  obtain ⟨⟨⟨⟨-, hlow⟩, hhigh⟩, -⟩, -⟩ := h
  exact ⟨hlow, hhigh⟩

theorem RingLaw.effect {s u : State} {c : Instr} (h : RingLaw s) (heff : Effect s c u) : RingLaw u := by
  have settled := engineStable_ringLaw.settleTimers h
  have taken : RingLaw s.takeCommand := h.congr (by simp) (by simp) (by simp)
  obtain ⟨hhold, hconsume, hproduce, hring, hpending⟩ := id h
  cases heff with
  | warmReset => exact h.warmReset
  | installRing words base size _ hok => exact taken.installRing (ringSizeLawful_of_accepted hok)
  | holdRing words base size _ hok =>
    obtain ⟨hhold, hconsume, hproduce, hring, -⟩ := taken
    refine ⟨hhold, hconsume, hproduce, hring, fun c hc => ?_⟩
    cases hc
    exact ringSizeLawful_of_accepted hok
  | takeProduceIndex e =>
    simp only [State.takeProduceIndex]
    split
    · exact h
    · refine RingLaw.decideProduce ?_ _
      exact h
  | takeConsumeIndex e =>
    simp only [State.takeConsumeIndex]
    split
    · exact h
    · refine RingLaw.decideConsume ?_ _
      exact h
  | lastElementWord =>
    refine ⟨hhold, hconsume, hproduce, fun hset => ?_, hpending⟩
    obtain ⟨hsize, -, hin⟩ := hring hset
    exact ⟨hsize, Nat.mod_lt _ (by unfold ringSizeLawful at hsize; omega), hin⟩
  | publishElement => exact RingLaw.writerFree (s := { State.raise _ causeNotice with notice := _ }) h
  | ringConsumeWord | ringAnswered => exact RingLaw.writerFree h
  | statusWord st =>
    rw [writeStatus_eq]
    exact ⟨hhold, Nat.mod_lt _ (by decide), hproduce, hring, hpending⟩
  | takeWrite e =>
    exact (watchStable_ringLaw.takeWrite e (s := s.takeFor .watch) h).congr (by simp) (by simp) (by simp)
  | takeSync r word => exact (RingLaw.takeSync (s := s.takeFor .watch) h r word).congr (by simp) (by simp) (by simp)
  | takeTurn e =>
    rw [takeTurn_eq]
    exact h
  | request | read | drop => exact h.congr (by simp) (by simp) (by simp)
  | refuse => exact h.congr (by simp [State.refuseAccess]) (by simp [State.refuseAccess]) (by simp [State.refuseAccess])
  | store => exact h.congr (by simp [State.masterStore]) (by simp [State.masterStore]) (by simp [State.masterStore])
  | clear => exact h.congr (by simp [State.clearCauses]) (by simp [State.clearCauses]) (by simp [State.clearCauses])
  | beat => exact h.congr (by rw [clockEvent_eq]) (by rw [clockEvent_eq]) (by rw [clockEvent_eq])
  | timerAnswer | timerSet => exact settled.congr (by simp) (by simp) (by simp)
  | arm | resync => exact h.congr (by simp) (by simp) (by simp)
  | disarm words w =>
    rw [freeWatch_eq]
    exact h
  | startQuest =>
    exact engineStable_ringLaw.runEngine (engineStable_ringLaw.ofPart (isPart_beginQuest _ _ _ _) taken)
  | resumeQuest => exact taken
  | resumeLate => exact engineStable_ringLaw.beginWork _ _ _ _ _ (engineStable_ringLaw.quest _ _ taken)
  | abandonQuest => exact engineStable_ringLaw.beginWork _ _ _ _ _ taken
  | engineGoesOn => exact engineStable_ringLaw.runEngine h
  | takeWatchEntry | timeoutExpiry => exact engineStable_ringLaw.beginWork _ _ _ _ _ h
  | denyEffect j => exact engineStable_ringLaw.effectReported _ h
  | effectSettled old new =>
    have hidle : RingLaw { s.settleTimers with effectUnit := .idle } :=
      settled.congr (by with_reducible rfl) (by with_reducible rfl) (by with_reducible rfl)
    exact engineStable_ringLaw.effectReported _ hidle
  | fetch =>
    rw [fetched_eq]
    exact h
  | consumeIndex =>
    rw [writeConsume_eq]
    exact h
  | _ => exact h

theorem keptByEffects_ringLaw : KeptByEffects RingLaw where
  pending _ h := h
  powerOn _ _ _ := by
    refine ⟨Nat.zero_le _, Nat.zero_lt_succ _, Nat.zero_lt_succ _, fun hset => ?_, fun c hc => ?_⟩
    · cases hset
    · cases hc
  deassert h := h
  react h := h.congr (react_notice _) (react_consumeIndex _) (react_page _)
  effect h heff := h.effect heff

/-- Settles O56. -/
theorem stepsKeepTheRingIndexesInRange : Obligations.StepsKeepTheRingIndexesInRange :=
  fun _ _ h hstep => keptByEffects_ringLaw.step h hstep

end Sys2Proof.Machine
end

section
/-! PROOFS. The bound of the snoop stream: a write enters it only as a grant ends, and a grant begins only while there is a
place. -/

namespace Sys2Proof.Machine

open Sys2Proof

theorem entriesStanding_of_stream {s t : State} (h : t.stream = s.stream) : t.entriesStanding = s.entriesStanding := by
  unfold State.entriesStanding
  rw [h]

/-- A step that leaves the stream as it was, and makes no grant. -/
theorem StreamLaw.congr {s t : State} (h : StreamLaw s) (hstream : t.stream = s.stream)
    (hport : t.mpa.port.isSome = true → s.mpa.port.isSome = true) : StreamLaw t := by
  unfold StreamLaw
  rw [entriesStanding_of_stream hstream]
  obtain ⟨hfour, hthree⟩ := h
  exact ⟨hfour, fun hsome => hthree (hport hsome)⟩

/-- The end of a grant, with at most one write for the stream. -/
theorem StreamLaw.ofEnd {t : State} (hport : t.mpa.port = none) (h : t.entriesStanding ≤ 4) : StreamLaw t := by
  refine ⟨h, fun hsome => ?_⟩
  rw [hport] at hsome
  cases hsome

section
variable {s t : State} (h : StreamLaw s) {g : Grant} (hgrant : s.mpa.port = some g)
include h hgrant

theorem StreamLaw.ofGrant : s.entriesStanding ≤ 3 := by
  obtain ⟨-, hthree⟩ := h
  exact hthree (by rw [hgrant]; rfl)

/-- A grant ends with a write that enters the stream. -/
theorem StreamLaw.endPush {body : StreamBody} (hport : t.mpa.port = none)
    (hstream : t.stream = (s.pushStream body).stream) : StreamLaw t := by
  refine .ofEnd hport ?_
  have hthree := h.ofGrant hgrant
  have hpush := pushStream_entries s body
  rw [entriesStanding_of_stream hstream]
  omega

theorem StreamLaw.endStill (hport : t.mpa.port = none) (hstream : t.stream = s.stream) : StreamLaw t := by
  refine .ofEnd hport ?_
  have hthree := h.ofGrant hgrant
  rw [entriesStanding_of_stream hstream]
  omega

end

theorem StreamLaw.takeFor {s t : State} (h : StreamLaw s) (b : Snooper) (hstream : t.stream = (s.takeFor b).stream)
    (hport : t.mpa = s.mpa) : StreamLaw t := by
  have htaken := takeFor_entries s b
  unfold StreamLaw
  rw [entriesStanding_of_stream hstream, hport]
  obtain ⟨hfour, hthree⟩ := h
  exact ⟨by omega, fun hsome => by have := hthree hsome; omega⟩

theorem EngineKeeps.streamLaw {s u : State} (hkeep : EngineKeeps s u) (h : StreamLaw s) : StreamLaw u :=
  h.congr hkeep.stream_eq (by rw [hkeep.mpa_eq]; exact id)

theorem resetGrant_isSome (s : State) : s.resetGrant.isSome = s.mpa.port.isSome := by
  unfold State.resetGrant
  split <;> simp [*]

theorem StreamLaw.effect {s u : State} {c : Instr} (h : StreamLaw s) (heff : Effect s c u) : StreamLaw u := by
  cases heff with
  | zeroWrite hready =>
    simp only [State.zeroWriteReady, Bool.and_eq_true, decide_eq_true_eq] at hready
    obtain ⟨-, hplace⟩ := hready
    have hpush := pushStream_entries { s with mem := writeWord s.mem (s.pageAddr (zeroOff s.mpa.zeroNext)) 0 }
      (.write { addr := s.pageAddr (zeroOff s.mpa.zeroNext), lanes := Lanes.all, data := 0, writer := .part, depth := 0,
                atPowerOn := true })
    exact .ofEnd rfl (hpush.trans hplace)
  | warmReset =>
    refine h.congr (by rw [warmReset_eq]) ?_
    rw [warmReset_eq]
    exact fun hsome => (resetGrant_isSome s).symm.trans hsome
  | refuse _ m a hc hport => exact h.endStill hport rfl (by simp [State.refuseAccess])
  | read m a hserved => exact h.endStill hserved.1 rfl (by simp)
  | drop m a hserved => exact h.endStill hserved.1 rfl (by simp)
  | store m a hserved =>
    refine h.endPush hserved.1 (body := .write
      { addr := wordAddrOf a, lanes := lanesOf a, data := onLanes (lanesOf a) a.data, writer := masterWriter m
        depth := 0, atPowerOn := false }) rfl ?_
    simp only [State.masterStore, endMasterGrant_stream]
    rfl
  | clear a hserved =>
    refine h.endPush hserved.1 (body := .write
      { addr := s.pageAddr causeOff, lanes := Lanes.all
        data := (s.cause.working &&& ~~~(clearSet a)).setWidth 32, writer := .proc, depth := 0
        atPowerOn := false }) rfl ?_
    simp only [State.clearCauses, endMasterGrant_stream]
    rfl
  | takeWrite e =>
    exact h.takeFor .watch (by rw [advanceWatchReset_stream, takeWrite_eq])
      (by rw [advanceWatchReset_mpa, takeWrite_eq, takeFor_mpa])
  | takeSync r word =>
    exact h.takeFor .watch (by rw [advanceWatchReset_stream, takeSync_eq])
      (by rw [advanceWatchReset_mpa, takeSync_eq, takeFor_mpa])
  | takeReveal e => exact h.takeFor .fog rfl rfl
  | takeEnable e => exact h.takeFor .page rfl rfl
  | takeTurn e => exact h.takeFor .page (by rw [takeTurn_eq]) (by rw [takeTurn_eq, takeFor_mpa])
  | takeProduceIndex e => exact h.takeFor .page (by rw [takeProduceIndex_eq]) (by rw [takeProduceIndex_eq, takeFor_mpa])
  | takeConsumeIndex e => exact h.takeFor .page (by rw [takeConsumeIndex_eq]) (by rw [takeConsumeIndex_eq, takeFor_mpa])
  | completeSync r hr hport =>
    refine .ofEnd rfl ?_
    have hthree := h.ofGrant hport
    have hmark := pushStream_mark_entries { s with syncRead := some { r with completed := true } } (readWord s.mem r.addr)
    exact (hmark.trans hthree).trans (by decide)
  | endGrant a hport =>
    obtain hport | ⟨op, hport⟩ := hport
    · exact h.endStill hport rfl rfl
    · exact h.endStill hport rfl rfl
  | orphanWrite a n w ha hport => exact h.endPush hport rfl rfl
  | orphanEffect a j ha hport => exact h.endPush hport rfl rfl
  | grantEffect j hport => exact h.endPush hport rfl rfl
  | denyEffect j hport =>
    have hended : StreamLaw (s.endIRGrant.recordFault .effect .write j.record.addr) := h.endStill hport rfl rfl
    exact (keeps_denyEffect _ j).streamLaw hended
  | faultWord hport | causeWord hport | vectorWord hport | resetCauseWord hport | resetVectorWord hport
  | elementWord _ hport | lastElementWord _ hport | ringProduceWord hport | resultWord _ _ _ _ hport =>
    exact h.endPush hport rfl rfl
  | publishElement hport => exact h.endPush hport (by rw [publishElement_eq]; rfl) (by rw [publishElement_eq]; rfl)
  | ringConsumeWord hport | ringAnswered _ hport =>
    exact h.endPush hport (by rw [writerFree_eq]; rfl) (by rw [writerFree_eq]; rfl)
  | statusWord _ _ _ hport => exact h.endPush hport (by rw [writeStatus_eq]; rfl) (by rw [writeStatus_eq]; rfl)
  | consumeIndex hport => exact h.endPush hport (by rw [writeConsume_eq]; rfl) (by rw [writeConsume_eq]; rfl)
  | fetch _ hport => exact h.endStill hport (by rw [fetched_eq]; rfl) (by rw [fetched_eq]; rfl)
  | request => exact h.congr (by simp) (by simp)
  | beat => exact (keeps_clockEvent s .beat).streamLaw h
  | timerAnswer => exact (after_report (keeps_settleTimers s) _ _).streamLaw h
  | timerSet => exact (after_report (after_updTimer (keeps_settleTimers s) _ _) _ _).streamLaw h
  | arm | resync | installRing | holdRing => exact h.congr (by simp [State.installRing]) (by simp [State.installRing])
  | disarm words w => exact h.congr (by rw [freeWatch_eq]; rfl) (by rw [freeWatch_eq]; exact id)
  | startQuest words q => exact (keeps_startQuest s q).streamLaw h
  | resumeQuest words q => exact (keeps_resumeQuest s q).streamLaw h
  | resumeLate words q => exact ((keeps_resumeQuest s q).trans (keeps_beginWork _ _ _ _ _ _)).streamLaw h
  | abandonQuest words q => exact ((keeps_takeCommand s).trans (keeps_beginWork _ _ _ _ _ _)).streamLaw h
  | engineGoesOn => exact (keeps_runEngine s).streamLaw h
  | takeWatchEntry | timeoutExpiry => exact (keeps_beginWork _ _ _ _ _ _).streamLaw h
  | effectSettled old new => exact (keeps_effectSettled s _).streamLaw h
  | _ => exact h

/-- R151: a grant is made only while fewer than four entries stand. -/
theorem StreamLaw.react {s : State} (h : StreamLaw s) : StreamLaw s.react := by
  unfold StreamLaw
  rw [react_entries]
  obtain ⟨hfour, hthree⟩ := h
  refine ⟨hfour, fun hsome => ?_⟩
  unfold State.react at hsome
  rw [arbitrate_port] at hsome
  split at hsome
  · exact hthree (by simpa using hsome)
  · next hfree =>
    have hplace : ¬4 ≤ s.beginPublication.entriesStanding := fun hfull => hfree (by simp [hfull])
    rw [entriesStanding_of_stream (beginPublication_stream s)] at hplace
    omega

theorem keptByEffects_streamLaw : KeptByEffects StreamLaw where
  pending _ h := h
  powerOn _ _ _ := .ofEnd rfl (Nat.zero_le _)
  deassert h := h
  react h := h.react
  effect h heff := h.effect heff

/-- Settles O57. -/
theorem stepsKeepTheStreamBound : Obligations.StepsKeepTheStreamBound :=
  fun _ _ h hstep => keptByEffects_streamLaw.step h hstep

end Sys2Proof.Machine
end

section
/-! PROOFS. The watch table: what an observation, a synchronising read, the missed flag and a warm reset make of a lawful
watch, and the law that every step keeps. -/

namespace Sys2Proof.Machine

open Sys2Proof

/-! ### One watch -/

theorem toNat_lt_of_getLsbD {v : Word} {width : Nat} (h : ∀ i, width ≤ i → i < 32 → v.getLsbD i = false) :
    v.toNat < 2 ^ width := by
  refine Nat.lt_pow_two_of_testBit _ fun i hi => ?_
  by_cases hin : i < 32
  · exact h i hi hin
  · exact BitVec.getLsbD_of_ge v i (by omega)

theorem extractField_lt (w : Word) (low width : Nat) : (extractField w low width).toNat < 2 ^ width := by
  refine toNat_lt_of_getLsbD fun i hi hin => ?_
  rw [extractField_getLsbD _ _ _ _ hin]
  simp [hi]

theorem Watch.free_of_lawful {x : Watch} (h : x.lawful) (hfree : x.state = .free) : x = Watch.cleared := by
  unfold Watch.lawful at h
  rwa [hfree] at h

theorem lawful_cleared : Watch.cleared.lawful := rfl

/-- The part of the law that a watch which is not FREE keeps whatever its shadow. -/
def Watch.shaped (x : Watch) : Prop :=
  1 ≤ x.width ∧ x.lowBit + x.width ≤ 32 ∧ x.addr % 4 = 0 ∧ x.filter.isEmpty = false ∧ x.operand.toNat < 2 ^ x.width

theorem Watch.lawful_of_syncing {x : Watch} (h : x.state = .syncing) :
    x.lawful ↔ x.shaped ∧ x.shadow.toNat < 2 ^ x.width ∧ (x.condition = .changed → x.truth = false) := by
  unfold Watch.lawful Watch.shaped
  rw [h]
  tauto

theorem Watch.lawful_of_armed {x : Watch} (h : x.state = .armed) :
    x.lawful ↔
      x.shaped ∧ x.shadow.toNat < 2 ^ x.width ∧ x.truth = truthOf x.condition x.width x.shadow x.operand := by
  unfold Watch.lawful Watch.shaped
  rw [h]
  tauto

theorem Watch.shaped_of_lawful {x : Watch} (h : x.lawful) (hdef : x.state ≠ .free) : x.shaped := by
  cases hstate : x.state with
  | free => exact absurd hstate hdef
  | syncing => exact ((Watch.lawful_of_syncing hstate).mp h).1
  | armed => exact ((Watch.lawful_of_armed hstate).mp h).1

theorem Watch.lawful_observe {x : Watch} (h : x.lawful) (harmed : x.state = .armed) (e : SnoopWrite) :
    (x.observe e).lawful := by
  have hshape := Watch.shaped_of_lawful h (by rw [harmed]; decide)
  exact (Watch.lawful_of_armed (x := x.observe e) harmed).mpr ⟨hshape, extractField_lt _ _ _, rfl⟩

theorem Watch.lawful_synced {x : Watch} (h : x.lawful) (hsync : x.state = .syncing) (word : Word) :
    (x.synced word).lawful := by
  have hshape := Watch.shaped_of_lawful h (by rw [hsync]; decide)
  exact (Watch.lawful_of_armed rfl).mpr ⟨hshape, extractField_lt _ _ _, rfl⟩

theorem Watch.lawful_missed {x : Watch} (h : x.lawful) (hdef : x.state ≠ .free) (b : Bool) :
    { x with missed := b }.lawful := by
  cases hstate : x.state with
  | free => exact absurd hstate hdef
  | syncing => exact (Watch.lawful_of_syncing rfl).mpr ((Watch.lawful_of_syncing hstate).mp h)
  | armed => exact (Watch.lawful_of_armed rfl).mpr ((Watch.lawful_of_armed hstate).mp h)

/-- R20, R26: an ARMED watch that is read again; the truth of a CHANGED watch is FALSE. -/
theorem Watch.lawful_resynced {x : Watch} (h : x.lawful) (harmed : x.state = .armed) :
    { x with state := .syncing }.lawful := by
  obtain ⟨hshape, hshadow, htruth⟩ := (Watch.lawful_of_armed harmed).mp h
  refine (Watch.lawful_of_syncing rfl).mpr ⟨hshape, hshadow, fun hchanged => ?_⟩
  have hcond : x.condition = .changed := hchanged
  rw [hcond] at htruth
  exact htruth

theorem Watch.lawful_warmReset {x : Watch} (h : x.lawful) : x.warmReset.lawful := by
  unfold Watch.warmReset
  split
  · exact h
  · next hsync => exact (Watch.lawful_of_syncing rfl).mpr ((Watch.lawful_of_syncing hsync).mp h)
  · next harmed => exact Watch.lawful_missed (Watch.lawful_resynced h harmed) (fun hfree => by cases hfree) false

/-! ### The table -/

theorem watch_of_watches {s t : State} (h : t.watches = s.watches) (w : Fin 64) : t.watch w = s.watch w := by
  unfold State.watch
  rw [h]

/-- The watch law as a structure, which the elaborator does not unfold to look for further arguments. -/
structure LawfulTable (table : Vector Watch 64) : Prop where
  entry : ∀ w : Fin 64, (table[w]).lawful

abbrev LawfulWatches (s : State) : Prop := LawfulTable s.watches

theorem LawfulWatches.watch {s : State} (h : LawfulWatches s) (w : Fin 64) : (s.watch w).lawful := h.entry w

theorem LawfulWatches.intro {s : State} (h : ∀ w : Fin 64, (s.watch w).lawful) : LawfulWatches s := ⟨h⟩

theorem LawfulWatches.congr {s t : State} (h : LawfulWatches s) (hwatches : t.watches = s.watches) : LawfulWatches t := by
  refine .intro fun w => ?_
  rw [watch_of_watches hwatches]
  exact h.watch w

theorem LawfulWatches.updWatch {s : State} (h : LawfulWatches s) {w : Fin 64} {f : Watch → Watch}
    (hf : (f (s.watch w)).lawful) :
    LawfulWatches (s.updWatch w f) := by
  refine .intro fun v => ?_
  by_cases hv : v = w
  · rw [hv, updWatch_self]
    exact hf
  · rw [updWatch_other _ _ _ _ hv]
    exact h.watch v

theorem LawfulWatches.map_warmReset {s t : State} (h : LawfulWatches s)
    (hwatches : t.watches = s.watches.map Watch.warmReset) : LawfulWatches t := by
  refine .intro fun w => ?_
  have hw : t.watch w = (s.watch w).warmReset := by simp [State.watch, hwatches]
  rw [hw]
  exact Watch.lawful_warmReset (h.watch w)

/-- R9, R11: of the watch table a firing changes at most the missed flag of its watch. -/
theorem fireWatch_watches (s : State) (w : Fin 64) (writer : Writer) (depth : Nat) (before after : Word) :
    (s.fireWatch w writer depth before after).watches = s.watches
      ∨ (s.fireWatch w writer depth before after).watches =
          (s.updWatch w fun x => { x with missed := true }).watches := by
  have hfire : (s.fireWatch w writer depth before after).watches = (s.offerWatch w writer depth).watches := by
    simp only [State.fireWatch]
    split
    · rw [handNotice_watches]
    · rfl
  rw [hfire]
  unfold State.offerWatch
  split
  · exact .inl rfl
  · exact .inr rfl
  · exact .inr rfl

theorem LawfulWatches.fireWatch {s : State} (h : LawfulWatches s) {w : Fin 64} (hdef : (s.watch w).state ≠ .free)
    (writer : Writer) (depth : Nat) (before after : Word) : LawfulWatches (s.fireWatch w writer depth before after) := by
  obtain hsame | hmissed := fireWatch_watches s w writer depth before after
  · exact h.congr hsame
  · exact (h.updWatch (Watch.lawful_missed (h.watch w) hdef true)).congr hmissed

theorem Watch.armed_of_sees {x : Watch} {e : SnoopWrite} (h : x.sees e = true) : x.state = .armed := by
  unfold Watch.sees at h
  simp only [Bool.and_eq_true, beq_iff_eq] at h
  obtain ⟨⟨harmed, -⟩, -⟩ := h
  exact harmed

theorem LawfulWatches.watchTakes {s : State} (h : LawfulWatches s) (e : SnoopWrite) (w : Fin 64) :
    LawfulWatches (s.watchTakes e w) := by
  cases hsees : (s.watch w).sees e with
  | false => rwa [watchTakes_unseen s e w hsees]
  | true =>
    have harmed := Watch.armed_of_sees hsees
    have hobserved : LawfulWatches (s.updWatch w fun x => x.observe e) :=
      h.updWatch (Watch.lawful_observe (h.watch w) harmed e)
    cases hfires : (s.watch w).firesAt e with
    | false => rwa [watchTakes_silent s e w hsees hfires]
    | true =>
      rw [watchTakes_fires s e w hsees hfires]
      refine hobserved.fireWatch ?_ _ _ _ _
      rw [updWatch_self]
      exact fun hfree => absurd (harmed.symm.trans hfree) (by decide)

theorem LawfulWatches.takeWrite {s : State} (h : LawfulWatches s) (e : SnoopWrite) : LawfulWatches (s.takeWrite e) := by
  unfold State.takeWrite
  generalize List.finRange 64 = l
  induction l generalizing s with
  | nil => exact h
  | cons w rest ih => exact ih (h.watchTakes e w)

theorem LawfulWatches.syncWatch {s : State} (h : LawfulWatches s) {w : Fin 64} (hsync : (s.watch w).state = .syncing)
    (word : Word) : LawfulWatches (s.syncWatch w word) := by
  have hsynced : LawfulWatches (s.updWatch w fun x => x.synced word) :=
    h.updWatch (Watch.lawful_synced (h.watch w) hsync word)
  simp only [State.syncWatch]
  split
  · refine hsynced.fireWatch ?_ _ _ _ _
    rw [updWatch_self]
    exact fun hfree => by cases hfree
  · exact hsynced

theorem LawfulWatches.takeSync {s : State} (h : LawfulWatches s) (r : SyncRead) (word : Word) :
    LawfulWatches (s.takeSync r word) := by
  obtain ht | ⟨-, hsync, ht⟩ := takeSync_cases s r word
  · exact h.congr (by rw [ht, issueSync_watches])
  · have hsynced : LawfulWatches (State.syncWatch { s with syncRead := none } r.watch word) :=
      LawfulWatches.syncWatch (s := { s with syncRead := none }) h hsync word
    obtain ht | ⟨-, ht⟩ := ht
    · exact hsynced.congr (by rw [ht, issueSync_watches])
    · exact hsynced.congr (by rw [ht, issueSync_watches, report_watches])

theorem LawfulWatches.takeWatchReset {s : State} (h : LawfulWatches s) : LawfulWatches s.takeWatchReset :=
  h.map_warmReset (by rw [takeWatchReset_eq])

theorem LawfulWatches.advanceWatchReset {s : State} (h : LawfulWatches s) : LawfulWatches s.advanceWatchReset := by
  unfold State.advanceWatchReset
  split
  · exact h
  · split
    · exact h.takeWatchReset
    · exact h

theorem LawfulWatches.placeWatchReset {s : State} (h : LawfulWatches s) (n : Nat) : LawfulWatches (s.placeWatchReset n) := by
  unfold State.placeWatchReset
  split
  · exact h
  · split
    · exact h.takeWatchReset
    · exact h

theorem EngineKeeps.lawfulWatches {s u : State} (hkeep : EngineKeeps s u) (h : LawfulWatches s) : LawfulWatches u :=
  h.congr hkeep.watches_eq

theorem LawfulWatches.effect {s u : State} {c : Instr} (h : LawfulWatches s) (heff : Effect s c u) : LawfulWatches u := by
  have taken : LawfulWatches (s.takeFor .watch) := h.congr (by simp)
  cases heff with
  | warmReset =>
    refine LawfulWatches.placeWatchReset ?_ _
    exact h.congr (by rw [resetRegions_eq])
  | takeWrite e => exact (taken.takeWrite e).advanceWatchReset
  | takeSync r word => exact (taken.takeSync r word).advanceWatchReset
  | arm _ words w e _ _ _ _ hlaw =>
    have hdefined : LawfulWatches (s.updWatch w fun _ => e) := h.updWatch (f := fun _ => e) hlaw
    exact hdefined.congr (by simp)
  | resync words w _ harmed =>
    have hsyncing : LawfulWatches (s.updWatch w fun x => { x with state := .syncing }) :=
      h.updWatch (Watch.lawful_resynced (h.watch w) harmed)
    exact hsyncing.congr (by simp)
  | readWatch words w =>
    refine h.updWatch (f := fun x => { x with missed := false }) ?_
    by_cases hfree : (s.watch w).state = .free
    · rw [Watch.free_of_lawful (h.watch w) hfree]
      exact lawful_cleared
    · exact Watch.lawful_missed (h.watch w) hfree false
  | disarm words w =>
    have hfreed : LawfulWatches (s.updWatch w fun _ => Watch.cleared) :=
      h.updWatch (f := fun _ => Watch.cleared) lawful_cleared
    exact hfreed.congr (by rw [freeWatch_eq]; rfl)
  | request | read | drop | installRing | holdRing => exact h.congr (by simp [State.installRing])
  | refuse => exact h.congr (by simp [State.refuseAccess])
  | store => exact h.congr (by simp [State.masterStore])
  | clear => exact h.congr (by simp [State.clearCauses])
  | takeTurn e => exact h.congr (by rw [takeTurn_eq, takeFor_watches])
  | takeProduceIndex e => exact h.congr (by rw [takeProduceIndex_eq, takeFor_watches])
  | takeConsumeIndex e => exact h.congr (by rw [takeConsumeIndex_eq, takeFor_watches])
  | beat => exact (keeps_clockEvent s .beat).lawfulWatches h
  | timerAnswer => exact (after_report (keeps_settleTimers s) _ _).lawfulWatches h
  | timerSet => exact (after_report (after_updTimer (keeps_settleTimers s) _ _) _ _).lawfulWatches h
  | startQuest words q => exact (keeps_startQuest s q).lawfulWatches h
  | resumeQuest words q => exact (keeps_resumeQuest s q).lawfulWatches h
  | resumeLate words q => exact ((keeps_resumeQuest s q).trans (keeps_beginWork _ _ _ _ _ _)).lawfulWatches h
  | abandonQuest words q => exact ((keeps_takeCommand s).trans (keeps_beginWork _ _ _ _ _ _)).lawfulWatches h
  | engineGoesOn => exact (keeps_runEngine s).lawfulWatches h
  | takeWatchEntry | timeoutExpiry => exact (keeps_beginWork _ _ _ _ _ _).lawfulWatches h
  | denyEffect j => exact (keeps_denyEffect _ j).lawfulWatches h
  | effectSettled old new => exact (keeps_effectSettled s _).lawfulWatches h
  | publishElement => exact h.congr (by rw [publishElement_eq]; rfl)
  | ringConsumeWord | ringAnswered => exact h.congr (by rw [writerFree_eq]; rfl)
  | statusWord => exact h.congr (by rw [writeStatus_eq]; rfl)
  | consumeIndex => exact h.congr (by rw [writeConsume_eq]; rfl)
  | fetch => exact h.congr (by rw [fetched_eq]; rfl)
  | _ => exact h

theorem keptByEffects_lawfulWatches : KeptByEffects LawfulWatches where
  pending _ h := h
  powerOn _ _ _ := by
    refine .intro fun w => ?_
    have hcleared : (State.reset.watch w) = Watch.cleared := by simp [State.watch, State.reset]
    exact hcleared ▸ lawful_cleared
  deassert h := h
  react h := h.congr (react_watches _)
  effect h heff := h.effect heff

/-- Settles O53. -/
theorem stepsKeepEveryWatchLawful : Obligations.StepsKeepEveryWatchLawful := fun _ _ h hstep =>
  (keptByEffects_lawfulWatches.step (.intro h) hstep).watch

end Sys2Proof.Machine
end

section
/-! PROOFS. The trigger queue: the bounds on its entries, from which its length follows, and the law that every step
keeps. -/

namespace Sys2Proof.Machine

open Sys2Proof

/-! ### A queue within its bounds -/

/-- R58, R59: the bounds on the entries of a queue, without the bound on its length. -/
structure QueueBounded (l : List Trigger) : Prop where
  watches : l.countP Trigger.isWatch ≤ 16
  expiries : ∀ t : Fin 8, l.countP (Trigger.isExpiryOf t) ≤ 1
  depths : ∀ e ∈ l, e.depth ≤ 7

/-- Every entry is a WATCH entry or the EXPIRY entry of one timer. -/
theorem length_eq_watches_add_expiries (l : List Trigger) :
    l.length = l.countP Trigger.isWatch + ∑ t : Fin 8, l.countP (Trigger.isExpiryOf t) := by
  induction l with
  | nil => simp
  | cons e rest ih =>
    simp only [List.length_cons, List.countP_cons, Finset.sum_add_distrib, ih]
    cases e with
    | watch w writer depth => simp [Trigger.isWatch, Trigger.isExpiryOf]; omega
    | expiry u b => simp [Trigger.isWatch, Trigger.isExpiryOf]; omega

theorem QueueBounded.length_le {l : List Trigger} (h : QueueBounded l) : l.length ≤ 24 := by
  have hexpiries : ∑ t : Fin 8, l.countP (Trigger.isExpiryOf t) ≤ ∑ _t : Fin 8, 1 :=
    Finset.sum_le_sum fun t _ => h.expiries t
  have hwatches := h.watches
  rw [length_eq_watches_add_expiries]
  simp only [Finset.sum_const, Finset.card_univ, Fintype.card_fin, smul_eq_mul, mul_one] at hexpiries
  omega

theorem queueLaw_iff {s : State} : QueueLaw s ↔ QueueBounded s.queue := by
  constructor
  · rintro ⟨-, hwatches, hexpiries, hdepths⟩
    exact ⟨hwatches, hexpiries, hdepths⟩
  · intro h
    exact ⟨h.length_le, h.watches, h.expiries, h.depths⟩

theorem queueBounded_nil : QueueBounded [] := ⟨Nat.zero_le _, fun _ => Nat.zero_le _, fun e he => by cases he⟩

theorem QueueBounded.sublist {l k : List Trigger} (h : QueueBounded l) (hsub : k.Sublist l) : QueueBounded k :=
  ⟨(hsub.countP_le).trans h.watches, fun t => (hsub.countP_le).trans (h.expiries t),
    fun e he => h.depths e (hsub.subset he)⟩

/-- R58, R11: a WATCH entry joins while fewer than 16 stand. -/
theorem QueueBounded.watch {l : List Trigger} (h : QueueBounded l) (hroom : l.countP Trigger.isWatch < 16)
    (w : Fin 64) (writer : Writer) {depth : Nat} (hdepth : depth < 8) : QueueBounded (l ++ [.watch w writer depth]) := by
  refine ⟨?_, fun t => ?_, fun e he => ?_⟩
  · simp only [List.countP_append, List.countP_singleton, Trigger.isWatch, if_true]
    omega
  · simpa [List.countP_append, List.countP_singleton, Trigger.isExpiryOf] using h.expiries t
  · rcases List.mem_append.mp he with hold | hnew
    · exact h.depths e hold
    · rw [List.mem_singleton.mp hnew]
      exact Nat.le_of_lt_succ hdepth

theorem mem_offerExpiry {l : List Trigger} {t : Fin 8} {b : Option (Fin 32)} {e : Trigger}
    (he : e ∈ offerExpiry l t b) : e ∈ l ∨ e = .expiry t b := by
  unfold offerExpiry at he
  split at he
  · obtain ⟨d, hd, rfl⟩ := List.mem_map.mp he
    by_cases hself : d.isExpiryOf t = true
    · exact .inr (if_pos hself)
    · rw [if_neg hself]
      exact .inl hd
  · simpa using he

/-- R60: an EXPIRY entry joins, or merges into the entry of its timer. -/
theorem QueueBounded.expiry {l : List Trigger} (h : QueueBounded l) (t : Fin 8) (b : Option (Fin 32)) :
    QueueBounded (offerExpiry l t b) := by
  refine ⟨?_, fun u => ?_, fun e he => ?_⟩
  · rw [offerExpiry_countP_isWatch]
    exact h.watches
  · by_cases hu : u = t
    · rw [hu]
      exact offerExpiry_countP_self l t b (h.expiries t)
    · rw [offerExpiry_countP_other l t u b hu]
      exact h.expiries u
  · obtain hold | rfl := mem_offerExpiry he
    · exact h.depths e hold
    · exact Nat.zero_le _

/-! ### The queue of the state -/

abbrev BoundedQueue (s : State) : Prop := QueueBounded s.queue

theorem BoundedQueue.congr {s t : State} (h : BoundedQueue s) (hqueue : t.queue = s.queue) : BoundedQueue t := by
  unfold BoundedQueue
  rw [hqueue]
  exact h

theorem BoundedQueue.expire {s : State} (h : BoundedQueue s) (k : Fin 8) : BoundedQueue (s.expire k) := by
  change QueueBounded (if (s.timer k).offers then offerExpiry s.queue k (s.timer k).binder else s.queue)
  split
  · exact QueueBounded.expiry h k _
  · exact h

theorem engineStable_boundedQueue : EngineStable BoundedQueue where
  quest _ _ h := h
  timer _ _ h := h
  expire k h := h.expire k
  notice n h := h.congr (handNotice_queue _ n)
  unit _ _ _ h := h
  work _ h := h
  answer _ _ h := h

theorem BoundedQueue.offerWatch {s : State} (h : BoundedQueue s) (w : Fin 64) (writer : Writer) (depth : Nat) :
    BoundedQueue (s.offerWatch w writer depth) := by
  unfold State.offerWatch
  split
  · next hqueued =>
    unfold State.offerOutcome at hqueued
    split at hqueued
    · cases hqueued
    · next hdepth =>
      split at hqueued
      · next hroom => exact QueueBounded.watch h (of_decide_eq_true hroom) w writer (by omega)
      · cases hqueued
  · exact h
  · exact h

theorem BoundedQueue.fireWatch {s : State} (h : BoundedQueue s) (w : Fin 64) (writer : Writer) (depth : Nat)
    (before after : Word) : BoundedQueue (s.fireWatch w writer depth before after) := by
  simp only [State.fireWatch]
  split
  · exact (h.offerWatch w writer depth).congr (handNotice_queue _ _)
  · exact h.offerWatch w writer depth

theorem BoundedQueue.takeWrite {s : State} (h : BoundedQueue s) (e : SnoopWrite) : BoundedQueue (s.takeWrite e) := by
  unfold State.takeWrite
  generalize List.finRange 64 = l
  induction l generalizing s with
  | nil => exact h
  | cons w rest ih =>
    refine ih (s := s.watchTakes e w) ?_
    simp only [State.watchTakes]
    split
    · split
      · exact BoundedQueue.fireWatch (s := s.updWatch w fun x => x.observe e) h _ _ _ _ _
      · exact h
    · exact h

theorem BoundedQueue.syncWatch {s : State} (h : BoundedQueue s) (w : Fin 64) (word : Word) :
    BoundedQueue (s.syncWatch w word) := by
  simp only [State.syncWatch]
  split
  · exact BoundedQueue.fireWatch (s := s.updWatch w fun x => x.synced word) h _ _ _ _ _
  · exact h

theorem BoundedQueue.takeSync {s : State} (h : BoundedQueue s) (r : SyncRead) (word : Word) :
    BoundedQueue (s.takeSync r word) := by
  have hsync := BoundedQueue.syncWatch (s := { s with syncRead := none }) h r.watch word
  obtain ht | ⟨-, -, ht | ⟨-, ht⟩⟩ := takeSync_cases s r word
  · exact h.congr (by rw [ht, issueSync_queue])
  · exact hsync.congr (by rw [ht, issueSync_queue])
  · exact hsync.congr (by rw [ht, issueSync_queue, report_queue])

theorem BoundedQueue.clockEvent {s : State} (h : BoundedQueue s) (c : Clock) : BoundedQueue (s.clockEvent c) :=
  (engineStable_boundedQueue.settleTimers h).congr (by simp only [State.clockEvent])

theorem BoundedQueue.takeTurn {s : State} (h : BoundedQueue s) (e : SnoopWrite) : BoundedQueue (s.takeTurn e) := by
  simp only [State.takeTurn]
  split
  · exact h
  · exact (h.clockEvent .turn).congr (by with_reducible rfl)

theorem BoundedQueue.effect {s u : State} {c : Instr} (h : BoundedQueue s) (heff : Effect s c u) : BoundedQueue u := by
  have settled := engineStable_boundedQueue.settleTimers h
  have taken : BoundedQueue s.takeCommand := h.congr (by simp)
  have atWatch : BoundedQueue (s.takeFor .watch) := h.congr (by simp)
  have atPage : BoundedQueue (s.takeFor .page) := h.congr (by simp)
  cases heff with
  | warmReset =>
    rw [warmReset_eq]
    exact queueBounded_nil
  | takeWrite e => exact (atWatch.takeWrite e).congr (by simp)
  | takeSync r word => exact (atWatch.takeSync r word).congr (by simp)
  | takeTurn e => exact atPage.takeTurn e
  | takeProduceIndex e => exact h.congr (by rw [takeProduceIndex_eq, takeFor_queue])
  | takeConsumeIndex e => exact h.congr (by rw [takeConsumeIndex_eq, takeFor_queue])
  | beat => exact h.clockEvent .beat
  | expiry k => exact h.expire k
  | timerAnswer | timerSet => exact settled.congr (by simp)
  | disarm words w =>
    rw [freeWatch_eq]
    exact QueueBounded.sublist h List.filter_sublist
  | takeWatchEntry v writer depth rest _ hqueue | timeoutExpiry _ _ rest _ hqueue =>
    have hrest : BoundedQueue { s with queue := rest } :=
      QueueBounded.sublist h (hqueue ▸ List.sublist_cons_self _ rest)
    exact engineStable_boundedQueue.beginWork _ _ _ _ _ hrest
  | dropExpiry k b rest _ hqueue | lateExpiry k q rest _ hqueue =>
    exact QueueBounded.sublist h (hqueue ▸ List.sublist_cons_self _ rest)
  | request | read | drop | arm | resync | installRing | holdRing => exact h.congr (by simp [State.installRing])
  | refuse => exact h.congr (by simp [State.refuseAccess])
  | store => exact h.congr (by simp [State.masterStore])
  | clear => exact h.congr (by simp [State.clearCauses])
  | startQuest =>
    exact engineStable_boundedQueue.runEngine (engineStable_boundedQueue.ofPart (isPart_beginQuest _ _ _ _) taken)
  | resumeQuest => exact taken
  | resumeLate => exact engineStable_boundedQueue.beginWork _ _ _ _ _ (engineStable_boundedQueue.quest _ _ taken)
  | abandonQuest => exact engineStable_boundedQueue.beginWork _ _ _ _ _ taken
  | engineGoesOn => exact engineStable_boundedQueue.runEngine h
  | denyEffect j => exact engineStable_boundedQueue.effectReported _ h
  | effectSettled old new =>
    have hidle : BoundedQueue { s.settleTimers with effectUnit := .idle } := settled.congr (by with_reducible rfl)
    exact engineStable_boundedQueue.effectReported _ hidle
  | publishElement => exact h.congr (by rw [publishElement_eq]; rfl)
  | ringConsumeWord | ringAnswered => exact h.congr (by rw [writerFree_eq]; rfl)
  | statusWord => exact h.congr (by rw [writeStatus_eq]; rfl)
  | consumeIndex => exact h.congr (by rw [writeConsume_eq]; rfl)
  | fetch => exact h.congr (by rw [fetched_eq]; rfl)
  | _ => exact h

theorem keptByEffects_boundedQueue : KeptByEffects BoundedQueue where
  pending _ h := h
  powerOn _ _ _ := queueBounded_nil
  deassert h := h
  react h := h.congr (react_queue _)
  effect h heff := h.effect heff

/-- Settles O52. -/
theorem stepsKeepTheQueueBounds : Obligations.StepsKeepTheQueueBounds := fun _ _ h hstep =>
  queueLaw_iff.mpr (keptByEffects_boundedQueue.step (queueLaw_iff.mp h) hstep)

end Sys2Proof.Machine
end

section
/-! PROOFS. The grants: a grant in progress serves an access that stands at its requester, and a command's work item keeps its
command in the command unit. -/

namespace Sys2Proof.Machine

open Sys2Proof

/-! ### The two halves of the law -/

/-- R147, R149, R160: the part of the law that speaks of the port. -/
structure PortLaw (s : State) : Prop where
  master : ∀ m, s.mpa.port = some (.master m) → (s.port m).access.isSome = true
  ir : ∀ a, s.mpa.port = some (.ir a) → s.requestStands a
  held : s.mpa.hold = true → s.mpa.port = none
  hold : s.mpa.hold = decide (s.mpa.zeroNext < 13)
  zero : s.mpa.zeroNext ≤ 13

/-- R64, R176: the part of the law that speaks of a command's work item. -/
def CommandHeld (s : State) : Prop :=
  ∀ w code, s.work = some w → w.source = .command code →
    engineCode code = true ∧ ∃ ws, s.cmd = .dispatched ws true ∧ codeOf ws = code

theorem grantLaw_iff {s : State} : GrantLaw s ↔ PortLaw s ∧ CommandHeld s := by
  constructor
  · rintro ⟨hmaster, hir, hheld, hhold, hzero, hwork⟩
    exact ⟨⟨hmaster, hir, hheld, hhold, hzero⟩, hwork⟩
  · rintro ⟨hport, hwork⟩
    exact ⟨hport.master, hport.ir, hport.held, hport.hold, hport.zero, hwork⟩

/-! ### The requests that stand -/

/-- A request that the grant in progress serves stands on. -/
def ServedKept (s t : State) : Prop := ∀ a, s.mpa.port = some (.ir a) → s.requestStands a → t.requestStands a

theorem PortLaw.keep {s t : State} (h : PortLaw s) (hmpa : t.mpa = s.mpa)
    (hports : ∀ m, (s.port m).access.isSome = true → (t.port m).access.isSome = true) (hserved : ServedKept s t) :
    PortLaw t where
  master m hport := by
    rw [hmpa] at hport
    exact hports m (h.master m hport)
  ir a hport := by
    rw [hmpa] at hport
    exact hserved a hport (h.ir a hport)
  held hhold := by
    rw [hmpa] at hhold ⊢
    exact h.held hhold
  hold := by rw [hmpa, h.hold]
  zero := by
    rw [hmpa]
    exact h.zero

/-- A grant ends. -/
theorem PortLaw.endGrant {s t : State} (h : PortLaw s) (hport : t.mpa.port = none) (hhold : t.mpa.hold = s.mpa.hold)
    (hzero : t.mpa.zeroNext = s.mpa.zeroNext) : PortLaw t where
  master m hm := by
    rw [hport] at hm
    cases hm
  ir a ha := by
    rw [hport] at ha
    cases ha
  held _ := hport
  hold := by rw [hhold, hzero, h.hold]
  zero := by
    rw [hzero]
    exact h.zero

/-- The state of the command unit in which it asks for no access. -/
def CmdState.quiet : CmdState → Bool
  | .idle => true
  | .dispatched _ _ => true
  | .fetching _ | .reporting _ _ _ | .advancing => false

/-- What a change may do to the fields that the requests rest on, so that no request is lost. -/
structure RequestsKept (s t : State) : Prop where
  unit : t.effectUnit = s.effectUnit ∨ (∃ j, t.effectUnit = .grantWait j) ∨ ∀ j, s.effectUnit ≠ .grantWait j
  sync : ∀ r, s.syncRead = some r → r.completed = false → ∃ q, t.syncRead = some q ∧ q.completed = false
  cause : t.cause.publication = s.cause.publication
  notice : t.notice.writer = s.notice.writer ∧ t.notice.indexWrites = s.notice.indexWrites
    ∨ s.notice.writer = .idle ∧ s.notice.indexWrites = 0
  cmd : t.cmd = s.cmd ∨ s.cmd.quiet = true

namespace RequestsKept

variable {s t : State} (h : RequestsKept s t)
include h

theorem cmd_of_asking (hasking : ¬s.cmd.quiet = true) : t.cmd = s.cmd := by
  obtain hsame | hquiet := h.cmd
  · exact hsame
  · exact absurd hquiet hasking

theorem notice_of_asking (hasking : ¬(s.notice.writer = .idle ∧ s.notice.indexWrites = 0)) :
    t.notice.writer = s.notice.writer ∧ t.notice.indexWrites = s.notice.indexWrites := by
  obtain hsame | hidle := h.notice
  · exact hsame
  · exact absurd hidle hasking

theorem served : ServedKept s t := by
  intro a _ hstands
  cases a with
  | effectRmw =>
    obtain ⟨j, hj⟩ := hstands
    obtain hsame | hwaits | hnone := h.unit
    · exact ⟨j, hsame.trans hj⟩
    · exact hwaits
    · exact absurd hj (hnone j)
  | syncRead =>
    obtain ⟨r, hr, hopen⟩ := hstands
    exact h.sync r hr hopen
  | faultWrite | causeWrite | vectorWrite => exact h.cause.trans hstands
  | resetWrite =>
    change t.cause.publication = _ ∨ t.cause.publication = _
    rw [h.cause]
    exact hstands
  | elementWrite =>
    obtain ⟨k, hk⟩ := hstands
    obtain ⟨hwriter, -⟩ := h.notice_of_asking (by simp [hk])
    exact ⟨k, hwriter.trans hk⟩
  | produceWrite =>
    have hk : s.notice.writer = .publishing := hstands
    obtain ⟨hwriter, -⟩ := h.notice_of_asking (by simp [hk])
    exact hwriter.trans hk
  | ringIndexWrite =>
    obtain ⟨hidle, hmore⟩ := hstands
    obtain ⟨hwriter, hindex⟩ := h.notice_of_asking (fun hfree => hmore hfree.2)
    exact ⟨hwriter.trans hidle, fun hzero => hmore (hindex.symm.trans hzero)⟩
  | fetchRead =>
    obtain ⟨ws, hcmd⟩ := hstands
    exact ⟨ws, (h.cmd_of_asking (by simp [hcmd, CmdState.quiet])).trans hcmd⟩
  | resultWrite =>
    obtain ⟨st, k, r, rs, hcmd⟩ := hstands
    exact ⟨st, k, r, rs, (h.cmd_of_asking (by simp [hcmd, CmdState.quiet])).trans hcmd⟩
  | statusWrite =>
    obtain ⟨st, k, hcmd⟩ := hstands
    exact ⟨st, k, (h.cmd_of_asking (by simp [hcmd, CmdState.quiet])).trans hcmd⟩
  | consumeWrite =>
    have hcmd : s.cmd = .advancing := hstands
    exact (h.cmd_of_asking (by simp [hcmd, CmdState.quiet])).trans hcmd

end RequestsKept

/-- A change that leaves the requesters as they were. -/
theorem RequestsKept.of_same {s t : State} (hunit : t.effectUnit = s.effectUnit) (hsync : t.syncRead = s.syncRead)
    (hcause : t.cause.publication = s.cause.publication) (hnotice : t.notice = s.notice) (hcmd : t.cmd = s.cmd) :
    RequestsKept s t where
  unit := .inl hunit
  sync r hr hopen := ⟨r, hsync.trans hr, hopen⟩
  cause := hcause
  notice := .inl ⟨by rw [hnotice], by rw [hnotice]⟩
  cmd := .inl hcmd

theorem requestsKept_refl (s : State) : RequestsKept s s := .of_same rfl rfl rfl rfl rfl

/-- R188: the ring is examined by an idle writer that has no index write to make. -/
theorem requestsKept_examineRing (s : State) : RequestsKept s s.examineRing := by
  obtain hsame | ⟨n, rest, hidle, -, hzero, htaken⟩ := examineRing_cases s
  · rw [hsame]
    exact requestsKept_refl s
  · rw [htaken]
    exact { requestsKept_refl s with notice := .inr ⟨hidle, hzero⟩ }

theorem requestsKept_handNotice (s : State) (n : Notice) : RequestsKept s (s.handNotice n) := by
  obtain hlost | ⟨-, hheld⟩ := handNotice_cases s n
  · rw [hlost]
    exact .of_same rfl rfl rfl rfl rfl
  · rw [hheld]
    have hexamine := requestsKept_examineRing
      { s with notice := { s.notice with hold := s.notice.hold ++ [{ n with turn := s.page.turn }] } }
    exact ⟨hexamine.unit, hexamine.sync, hexamine.cause, hexamine.notice, hexamine.cmd⟩

theorem PortLaw.ofKept {s t : State} (h : PortLaw s) (hmpa : t.mpa = s.mpa) (hproc : t.procPort = s.procPort)
    (hscan : t.scanPort = s.scanPort) (hkept : RequestsKept s t) : PortLaw t := by
  refine h.keep hmpa (fun m hm => ?_) hkept.served
  cases m
  · exact (congrArg (fun p => p.access.isSome) hproc).trans hm
  · exact (congrArg (fun p => p.access.isSome) hscan).trans hm

/-! ### The engine -/

theorem partStable_portLaw : PartStable PortLaw where
  quest _ _ h := h.ofKept rfl rfl rfl (.of_same rfl rfl rfl rfl rfl)
  timer _ _ h := h.ofKept rfl rfl rfl (.of_same rfl rfl rfl rfl rfl)
  expire _ h := h.ofKept rfl rfl rfl (.of_same rfl rfl rfl rfl rfl)
  notice n h := h.ofKept (by simp) (by simp) (by simp) (requestsKept_handNotice _ n)
  unit j _ _ h := h.ofKept rfl rfl rfl { requestsKept_refl _ with unit := .inr (.inl ⟨j, rfl⟩) }

/-- The engine's parts leave the command unit alone, but for the report that ends a command's work item. -/
theorem partStable_cmd (cmd : CmdState) : PartStable fun t => t.cmd = cmd where
  quest _ _ h := h
  timer _ _ h := h
  expire _ h := h
  notice n h := (handNotice_cmd _ n).trans h
  unit _ _ _ h := h

structure GrantsServed (s : State) : Prop where
  port : PortLaw s
  work : CommandHeld s

theorem PortLaw.report {s : State} (h : PortLaw s) (hquiet : s.cmd.quiet = true) (st : Status) (rs : List Word) :
    PortLaw (s.report st rs) := h.ofKept rfl rfl rfl { requestsKept_refl s with cmd := .inr hquiet }

theorem CommandHeld.of_idle {s : State} (h : s.work = none) : CommandHeld s := by
  intro w code hwork
  rw [h] at hwork
  cases hwork

theorem CommandHeld.congr {s t : State} (h : CommandHeld s) (hwork : t.work = s.work) (hcmd : t.cmd = s.cmd) :
    CommandHeld t := by
  unfold CommandHeld
  rw [hwork, hcmd]
  exact h

/-- While the command unit holds no command that the engine has taken, no work item is a command's. -/
theorem CommandHeld.of_other {s t : State} (h : CommandHeld s) (hwork : t.work = s.work)
    (hcmd : ∀ ws, s.cmd = .dispatched ws true → engineCode (codeOf ws) = false) : CommandHeld t := by
  intro w code hw hsource
  rw [hwork] at hw
  obtain ⟨hengine, ws, hdispatched, hcode⟩ := h w code hw hsource
  rw [← hcode, hcmd ws hdispatched] at hengine
  cases hengine

theorem GrantsServed.endWork {s : State} (h : GrantsServed s) {w : WorkItem} (hwork : s.work = some w) :
    GrantsServed (s.endWork w) := by
  have hended : PortLaw { s with work := none } := h.port.ofKept rfl rfl rfl (.of_same rfl rfl rfl rfl rfl)
  unfold State.endWork
  split
  · next code hsource =>
    obtain ⟨-, ws, hcmd, -⟩ := h.work w code hwork hsource
    have hquiet : s.cmd.quiet = true := by
      rw [hcmd]
      rfl
    exact ⟨hended.report hquiet _ _, .of_idle rfl⟩
  all_goals exact ⟨hended, .of_idle rfl⟩

/-- A part of a work item whose command, if it is a command's, the command unit holds. -/
theorem GrantsServed.ofPart {s t : State} {w : WorkItem} (h : PortLaw s)
    (hheld : ∀ code, w.source = .command code →
      engineCode code = true ∧ ∃ ws, s.cmd = .dispatched ws true ∧ codeOf ws = code)
    (hpart : IsPart s w t) : GrantsServed t := by
  obtain ⟨u, v, hsource, rfl, hu⟩ := hpart
  have hcmd : u.cmd = s.cmd := hu _ (partStable_cmd s.cmd) rfl
  refine ⟨(hu _ partStable_portLaw h).ofKept rfl rfl rfl (.of_same rfl rfl rfl rfl rfl), ?_⟩
  intro x code hx hcommand
  cases hx
  change _ ∧ ∃ ws, u.cmd = _ ∧ _
  rw [hcmd]
  exact hheld code (hsource.symm.trans hcommand)

theorem GrantsServed.engineStep {s : State} (h : GrantsServed s) {w : WorkItem} (hwork : s.work = some w)
    (hgoes : w.task.waits = false) : GrantsServed (s.engineStep w) := by
  obtain hend | ⟨u, v, hsource, ht, hu⟩ := engineStep_cases s w hgoes
  · rw [hend]
    exact h.endWork hwork
  · exact .ofPart h.port (fun code => h.work w code hwork) ⟨u, v, hsource, ht, hu⟩

theorem GrantsServed.runEngine {s : State} (h : GrantsServed s) : GrantsServed s.runEngine :=
  runParts_keeps (fun hwork hgoes h => h.engineStep hwork hgoes) _ h

theorem GrantsServed.effectReported {s : State} (h : GrantsServed s) (r : EffectResult) :
    GrantsServed (s.effectReported r) := by
  unfold State.effectReported
  split
  · exact h
  · next w hwork =>
    split
    · refine GrantsServed.runEngine ⟨h.port.ofKept rfl rfl rfl (.of_same rfl rfl rfl rfl rfl), ?_⟩
      intro x code hx hcommand
      cases hx
      exact h.work w code hwork hcommand
    all_goals exact h

theorem GrantsServed.beginWork {s : State} (h : PortLaw s) {source : Source} (depth player : Nat)
    (visits : List (Fin 32)) (task : Task)
    (hsource : ∀ code, source = .command code →
      engineCode code = true ∧ ∃ ws, s.cmd = .dispatched ws true ∧ codeOf ws = code) :
    GrantsServed (s.beginWork source depth player visits task) := by
  refine GrantsServed.runEngine ⟨h.ofKept rfl rfl rfl (.of_same rfl rfl rfl rfl rfl), ?_⟩
  intro x code hx hcommand
  cases hx
  exact hsource code hcommand

end Sys2Proof.Machine
end

section
/-! PROOFS. That every effect and the reaction keep the law of the grants. -/

namespace Sys2Proof.Machine

open Sys2Proof

/-! ### The watch unit's read -/

theorem syncRead_issueSync {s : State} {r : SyncRead} (h : s.syncRead = some r) : s.issueSync.syncRead = some r := by
  rw [issueSync_waits s (.inl (by rw [h]; exact Option.some_ne_none r))]
  exact h

theorem syncRead_takeWatchReset {s : State} {r : SyncRead} (h : s.syncRead = some r) :
    s.takeWatchReset.syncRead = some r :=
  syncRead_issueSync (s := { s with watchReset := none, watches := s.watches.map Watch.warmReset }) h

theorem syncRead_advanceWatchReset {s : State} {r : SyncRead} (h : s.syncRead = some r) :
    s.advanceWatchReset.syncRead = some r := by
  unfold State.advanceWatchReset
  split
  · exact h
  · split
    · exact syncRead_takeWatchReset h
    · exact h

theorem syncRead_placeWatchReset {s : State} {r : SyncRead} (h : s.syncRead = some r) (n : Nat) :
    (s.placeWatchReset n).syncRead = some r := by
  unfold State.placeWatchReset
  split
  · exact h
  · split
    · exact syncRead_takeWatchReset h
    · exact h

/-! ### Firings -/

/-- What a firing does to the requesters: it may set the notice writer to work. -/
theorem watchStable_portLaw : WatchStable PortLaw where
  watch _ _ h := h.ofKept rfl rfl rfl (.of_same rfl rfl rfl rfl rfl)
  queue _ h := h.ofKept rfl rfl rfl (.of_same rfl rfl rfl rfl rfl)
  raise _ h := h.ofKept rfl rfl rfl (.of_same rfl rfl rfl rfl rfl)
  notice n h := partStable_portLaw.notice n h

theorem GrantsServed.congr {s t : State} (h : GrantsServed s) (hport : PortLaw t) (hwork : t.work = s.work)
    (hcmd : t.cmd = s.cmd) : GrantsServed t := ⟨hport, h.work.congr hwork hcmd⟩

/-- A change of the requesters' other fields, with the command unit and the work item as they were. -/
theorem GrantsServed.ofKept {s t : State} (h : GrantsServed s) (hmpa : t.mpa = s.mpa) (hproc : t.procPort = s.procPort)
    (hscan : t.scanPort = s.scanPort) (hkept : RequestsKept s t) (hwork : t.work = s.work) (hcmd : t.cmd = s.cmd) :
    GrantsServed t := h.congr (h.port.ofKept hmpa hproc hscan hkept) hwork hcmd

theorem GrantsServed.endGrant {s t : State} (h : GrantsServed s) (hport : t.mpa.port = none)
    (hhold : t.mpa.hold = s.mpa.hold) (hzero : t.mpa.zeroNext = s.mpa.zeroNext) (hwork : t.work = s.work)
    (hcmd : t.cmd = s.cmd) : GrantsServed t := h.congr (h.port.endGrant hport hhold hzero) hwork hcmd

theorem GrantsServed.takeWrite {s : State} (h : GrantsServed s) (e : SnoopWrite) :
    GrantsServed (s.takeWrite e).advanceWatchReset := by
  have htaken : GrantsServed (s.takeWrite e) :=
    h.congr (watchStable_portLaw.takeWrite e h.port) (by rw [takeWrite_eq]) (by rw [takeWrite_eq])
  refine htaken.ofKept (by simp) (by simp) (by simp) ?_ (by simp) (by simp)
  exact ⟨.inl (by simp), fun r hr hopen => ⟨r, syncRead_advanceWatchReset hr, hopen⟩, by simp, .inl (by simp),
    .inl (by simp)⟩

/-- The completion of the synchronising read is taken while no grant is in progress for one. -/
theorem GrantsServed.takeSync {s : State} (h : GrantsServed s) (hport : s.mpa.port ≠ some (.ir .syncRead)) (r : SyncRead)
    (word : Word) : GrantsServed (s.takeSync r word).advanceWatchReset := by
  have hserved : ServedKept s { s with syncRead := none } := by
    intro a ha hstands
    cases a with
    | syncRead => exact absurd ha hport
    | _ => exact hstands
  have hissued : ∀ {t : State}, GrantsServed t → t.syncRead = none → t.mpa.port ≠ some (.ir .syncRead) →
      GrantsServed t.issueSync.advanceWatchReset := by
    intro t ht hnone _
    refine ht.ofKept (by simp) (by simp) (by simp) ?_ (by simp) (by simp)
    refine ⟨.inl (by simp), fun q hq => ?_, by simp, .inl (by simp), .inl (by simp)⟩
    rw [hnone] at hq
    cases hq
  have hcleared : PortLaw { s with syncRead := none } := by
    refine h.port.keep rfl (fun m hm => ?_) hserved
    cases m <;> exact hm
  have hnone : GrantsServed { s with syncRead := none } := h.congr hcleared rfl rfl
  have hkeeps := watchUnitKeeps_syncWatch { s with syncRead := none } r.watch word
  unfold WatchUnitKeeps at hkeeps
  have hsynced : GrantsServed (State.syncWatch { s with syncRead := none } r.watch word) :=
    hnone.congr (watchStable_portLaw.syncWatch _ _ hcleared) (by rw [hkeeps]) (by rw [hkeeps])
  obtain ht | ⟨-, -, ht | ⟨⟨ws, hcmd, hcode⟩, ht⟩⟩ := takeSync_cases s r word
  · rw [ht]
    exact hissued hnone rfl hport
  · rw [ht]
    exact hissued hsynced (by rw [hkeeps]) (by rw [hkeeps]; exact hport)
  · rw [ht]
    have hcmd' : (State.syncWatch { s with syncRead := none } r.watch word).cmd = .dispatched ws true := by
      rw [hkeeps]
      exact hcmd
    refine hissued ⟨hsynced.port.report (by rw [hcmd']; rfl) _ _, ?_⟩ ?_ ?_
    · refine hsynced.work.of_other rfl fun vs hvs => ?_
      rw [hcmd'] at hvs
      cases hvs
      obtain hcode | hcode | hcode := hcode <;> rw [hcode] <;> rfl
    · rw [report_syncRead, hkeeps]
    · rw [report_mpa, hkeeps]
      exact hport

/-! ### The copies and the timers -/

theorem PortLaw.clockEvent {s : State} (h : PortLaw s) (c : Clock) : PortLaw (s.clockEvent c) := by
  have settled := partStable_portLaw.settleTimers h
  refine settled.ofKept ?_ ?_ ?_ (.of_same ?_ ?_ ?_ ?_ ?_) <;> simp only [State.clockEvent]

theorem PortLaw.takeTurn {s : State} (h : PortLaw s) (e : SnoopWrite) : PortLaw (s.takeTurn e) := by
  simp only [State.takeTurn]
  split
  · exact h.ofKept rfl rfl rfl (.of_same rfl rfl rfl rfl rfl)
  · refine (h.clockEvent .turn).ofKept ?_ ?_ ?_ (.of_same ?_ ?_ ?_ ?_ ?_) <;> with_reducible rfl

theorem GrantsServed.decideProduce {s : State} (h : GrantsServed s) (v : Word) : GrantsServed (s.decideProduce v) := by
  have haccepted : GrantsServed { s with page := { s.page with produce := v.toNat } } :=
    h.ofKept rfl rfl rfl (.of_same rfl rfl rfl rfl rfl) rfl rfl
  obtain hd | ⟨-, hd | ⟨hidle, hd⟩⟩ := decideProduce_cases s v
  · rw [hd]
    exact h.ofKept rfl rfl rfl (.of_same rfl rfl rfl rfl rfl) rfl rfl
  · rw [hd]
    exact haccepted
  · rw [hd, compareIndexes_eq]
    have hquiet : s.cmd.quiet = true := by
      rw [hidle]
      rfl
    refine ⟨haccepted.port.ofKept rfl rfl rfl { requestsKept_refl _ with cmd := .inr hquiet }, ?_⟩
    refine haccepted.work.of_other rfl fun ws hws => ?_
    rw [show s.cmd = _ from hws] at hidle
    cases hidle

theorem GrantsServed.decideConsume {s : State} (h : GrantsServed s) (v : Word) : GrantsServed (s.decideConsume v) := by
  have haccepted : GrantsServed { s with page := { s.page with consume := v.toNat } } :=
    h.ofKept rfl rfl rfl (.of_same rfl rfl rfl rfl rfl) rfl rfl
  obtain hd | ⟨-, hd⟩ := decideConsume_cases s v
  · rw [hd]
    exact h.ofKept rfl rfl rfl (.of_same rfl rfl rfl rfl rfl) rfl rfl
  · rw [hd]
    exact haccepted.ofKept (by simp) (by simp) (by simp) (requestsKept_examineRing _) (by simp) (by simp)

/-! ### The warm reset -/

/-- R162: a withdrawn access is left to the memory port. -/
theorem orphaned_of_withdrawn (s : State) {a : IRAccess} (h : a.withdrawn = true) :
    ∃ op, s.orphaned a = .orphan a op := by
  cases a
  case syncRead | produceWrite | ringIndexWrite => cases h
  case faultWrite | causeWrite | vectorWrite | resetWrite | consumeWrite | fetchRead => exact ⟨_, rfl⟩
  all_goals
    simp only [State.orphaned]
    split <;> exact ⟨_, rfl⟩

/-- R26, R192: the accesses that stay with their block. -/
theorem orphaned_of_kept (s : State) {a : IRAccess} (h : a.withdrawn = false) : s.orphaned a = .ir a := by
  cases a
  case syncRead | produceWrite | ringIndexWrite => rfl
  all_goals cases h

theorem resetGrant_eq_ir {s : State} {a : IRAccess} (h : s.resetGrant = some (.ir a)) :
    s.mpa.port = some (.ir a) ∧ a.withdrawn = false := by
  unfold State.resetGrant at h
  split at h
  · cases h
  · cases h
  · cases h
  · next b hport =>
    cases hb : b.withdrawn with
    | false =>
      rw [orphaned_of_kept s hb] at h
      cases h
      exact ⟨hport, hb⟩
    | true =>
      obtain ⟨op, hop⟩ := orphaned_of_withdrawn s hb
      rw [hop] at h
      cases h

theorem resetGrant_eq_master {s : State} {m : Master} (h : s.resetGrant = some (.master m)) :
    s.mpa.port = some (.master m) := by
  unfold State.resetGrant at h
  split at h
  · cases h
  · next hport =>
    cases h
    exact hport
  · cases h
  · next b hport =>
    cases hb : b.withdrawn with
    | false =>
      rw [orphaned_of_kept s hb] at h
      cases h
    | true =>
      obtain ⟨op, hop⟩ := orphaned_of_withdrawn s hb
      rw [hop] at h
      cases h

theorem resetGrant_eq_none {s : State} (h : s.mpa.port = none) : s.resetGrant = none := by
  unfold State.resetGrant
  rw [h]

theorem syncRead_warmReset {s : State} {r : SyncRead} (h : s.resetSync = some r) : s.warmReset.syncRead = some r :=
  syncRead_placeWatchReset h _

/-- R26, R192: an access that stays with its block is asked for by that block still. -/
theorem requestStands_warmReset {s : State} {a : IRAccess} (hport : s.mpa.port = some (.ir a))
    (hkept : a.withdrawn = false) (hstands : s.requestStands a) : s.warmReset.requestStands a := by
  have hnotice : s.warmReset.notice = s.notice.warmReset := by rw [warmReset_eq]
  cases a
  case syncRead =>
    obtain ⟨r, hr, hopen⟩ := hstands
    refine ⟨{ r with stale := true }, syncRead_warmReset ?_, hopen⟩
    simp [State.resetSync, hr, hport]
  case produceWrite =>
    have hwriter : s.notice.writer = .publishing := hstands
    change s.warmReset.notice.writer = .publishing
    rw [hnotice]
    simp [NoticeWriter.warmReset, hwriter]
  case ringIndexWrite =>
    obtain ⟨hidle, hmore⟩ := hstands
    change s.warmReset.notice.writer = .idle ∧ s.warmReset.notice.indexWrites ≠ 0
    rw [hnotice]
    simp [NoticeWriter.warmReset, hidle, hmore]
  all_goals cases hkept

theorem GrantsServed.warmReset {s : State} (h : GrantsServed s) : GrantsServed s.warmReset := by
  have hmpa : s.warmReset.mpa = { s.mpa with port := s.resetGrant } := by rw [warmReset_eq]
  have hproc : s.warmReset.procPort = s.procPort := by rw [warmReset_eq]
  have hscan : s.warmReset.scanPort = s.scanPort := by rw [warmReset_eq]
  refine ⟨⟨fun m hport => ?_, fun a hport => ?_, fun hhold => ?_, ?_, ?_⟩, .of_idle (by rw [warmReset_eq])⟩
  · rw [hmpa] at hport
    have hm := h.port.master m (resetGrant_eq_master hport)
    cases m
    · exact (congrArg (fun p => p.access.isSome) hproc).trans hm
    · exact (congrArg (fun p => p.access.isSome) hscan).trans hm
  · rw [hmpa] at hport
    obtain ⟨hir, hkept⟩ := resetGrant_eq_ir hport
    exact requestStands_warmReset hir hkept (h.port.ir a hir)
  · rw [hmpa] at hhold ⊢
    exact resetGrant_eq_none (h.port.held hhold)
  · rw [hmpa]
    exact h.port.hold
  · rw [hmpa]
    exact h.port.zero

/-! ### The effects -/

theorem not_taken_of_dispatched {s : State} {words ws : List Word} (h : s.cmd = .dispatched words false) :
    s.cmd ≠ .dispatched ws true := by
  rw [h]
  exact fun heq => by cases heq

/-- A block answers, or takes, the command that is handed over. -/
theorem GrantsServed.ofHanded {s t : State} {words : List Word} (h : GrantsServed s)
    (hcmd : s.cmd = .dispatched words false) (hport : PortLaw t) (hwork : t.work = s.work) : GrantsServed t :=
  ⟨hport, h.work.of_other hwork fun _ hws => absurd hws (not_taken_of_dispatched hcmd)⟩

theorem quiet_of_dispatched {s : State} {words : List Word} {taken : Bool} (h : s.cmd = .dispatched words taken) :
    s.cmd.quiet = true := by
  rw [h]
  rfl

theorem quiet_settleTimers {s : State} {words : List Word} {taken : Bool} (h : s.cmd = .dispatched words taken) :
    s.settleTimers.cmd.quiet = true := by
  rw [settleTimers_eq]
  exact quiet_of_dispatched h

theorem PortLaw.takeCommand {s : State} (h : PortLaw s) (hquiet : s.cmd.quiet = true) : PortLaw s.takeCommand :=
  h.ofKept (by simp) (by simp) (by simp)
    ⟨.inl (by simp), fun r hr hopen => ⟨r, by simpa using hr, hopen⟩, by simp, .inl (by simp), .inr hquiet⟩

theorem PortLaw.issueSync {s : State} (h : PortLaw s) : PortLaw s.issueSync :=
  h.ofKept (by simp) (by simp) (by simp)
    ⟨.inl (by simp), fun r hr hopen => ⟨r, syncRead_issueSync hr, hopen⟩, by simp, .inl (by simp), .inl (by simp)⟩

theorem PortLaw.updWatch {s : State} (h : PortLaw s) (w : Fin 64) (f : Watch → Watch) : PortLaw (s.updWatch w f) :=
  watchStable_portLaw.watch w f h

/-- The engine takes the command that is handed over. -/
theorem takenCommand {s : State} {code : Nat} {words : List Word} (h : s.hands code words)
    (hengine : engineCode code = true) :
    engineCode code = true ∧ ∃ ws, s.takeCommand.cmd = .dispatched ws true ∧ codeOf ws = code := by
  obtain ⟨hcmd, hcode⟩ := h
  refine ⟨hengine, words, ?_, hcode⟩
  rw [takeCommand_of_dispatched hcmd]

/-- R106: the effect unit has no access to make once it has settled. -/
theorem PortLaw.settled {s : State} (h : PortLaw s) {old new : Word} (hunit : s.effectUnit = .settling old new) :
    PortLaw { s.settleTimers with effectUnit := .idle } := by
  have hsettled := partStable_portLaw.settleTimers h
  have hsame : s.settleTimers.effectUnit = .settling old new := by
    rw [settleTimers_eq]
    exact hunit
  generalize s.settleTimers = v at hsettled hsame
  refine hsettled.ofKept rfl rfl rfl ?_
  refine ⟨.inr (.inr fun j hj => ?_), fun r hr hopen => ⟨r, hr, hopen⟩, rfl, .inl ⟨rfl, rfl⟩, .inl rfl⟩
  cases hsame.symm.trans hj

theorem GrantsServed.effect {s u : State} {c : Instr} (h : GrantsServed s) (heff : Effect s c u) : GrantsServed u := by
  have settled := partStable_portLaw.settleTimers h.port
  cases heff with
  | zeroWrite hready =>
    simp only [State.zeroWriteReady, Bool.and_eq_true, decide_eq_true_eq] at hready
    obtain ⟨⟨⟨-, hnext⟩, -⟩, -⟩ := hready
    refine ⟨⟨fun m hm => ?_, fun a ha => ?_, fun _ => rfl, rfl, Nat.succ_le_of_lt hnext⟩, h.work.congr rfl rfl⟩
    · cases hm
    · cases ha
  | warmReset => exact h.warmReset
  | request m a =>
    refine h.congr (h.port.keep (by simp) (fun n hn => ?_) (fun b _ hb => ?_)) (by simp) (by simp)
    · by_cases hm : n = m
      · rw [hm, setPort_self]
        rfl
      · rwa [setPort_other _ _ _ _ hm]
    · cases m <;> exact hb
  | read | drop => exact h.endGrant rfl rfl rfl (by simp) (by simp)
  | refuse => exact h.endGrant rfl rfl rfl (by simp [State.refuseAccess]) (by simp [State.refuseAccess])
  | store => exact h.endGrant rfl rfl rfl (by simp [State.masterStore]) (by simp [State.masterStore])
  | clear => exact h.endGrant rfl rfl rfl (by simp [State.clearCauses]) (by simp [State.clearCauses])
  | takeWrite e =>
    have taken : GrantsServed (s.takeFor .watch) := h.ofKept rfl rfl rfl (.of_same rfl rfl rfl rfl rfl) rfl rfl
    exact taken.takeWrite e
  | takeSync r word _ hport =>
    have taken : GrantsServed (s.takeFor .watch) := h.ofKept rfl rfl rfl (.of_same rfl rfl rfl rfl rfl) rfl rfl
    exact taken.takeSync hport r word
  | takeTurn e =>
    have taken : PortLaw (s.takeFor .page) := h.port.ofKept rfl rfl rfl (.of_same rfl rfl rfl rfl rfl)
    exact h.congr (taken.takeTurn e) (by rw [takeTurn_eq, takeFor_work]) (by rw [takeTurn_eq, takeFor_cmd])
  | takeProduceIndex e =>
    simp only [State.takeProduceIndex]
    split
    · exact h.ofKept rfl rfl rfl (.of_same rfl rfl rfl rfl rfl) rfl rfl
    · refine GrantsServed.decideProduce ?_ _
      exact h.ofKept rfl rfl rfl (.of_same rfl rfl rfl rfl rfl) rfl rfl
  | takeConsumeIndex e =>
    simp only [State.takeConsumeIndex]
    split
    · exact h.ofKept rfl rfl rfl (.of_same rfl rfl rfl rfl rfl) rfl rfl
    · refine GrantsServed.decideConsume ?_ _
      exact h.ofKept rfl rfl rfl (.of_same rfl rfl rfl rfl rfl) rfl rfl
  | beat => exact h.congr (h.port.clockEvent .beat) (by rw [clockEvent_eq]) (by rw [clockEvent_eq])
  | takeReveal | takeEnable | expiry | dropExpiry | lateExpiry =>
    exact h.ofKept rfl rfl rfl (.of_same rfl rfl rfl rfl rfl) rfl rfl
  | answer _ words st rs hcmd => exact h.ofHanded hcmd (h.port.report (quiet_of_dispatched hcmd) st rs) rfl
  | arm _ words w e _ hcmd =>
    refine h.ofHanded hcmd (PortLaw.issueSync (PortLaw.takeCommand (h.port.updWatch w _) ?_)) (by simp)
    exact quiet_of_dispatched hcmd
  | resync words w hands =>
    have hcmd := cmd_of_hands hands
    refine h.ofHanded hcmd (PortLaw.issueSync (PortLaw.takeCommand (h.port.updWatch w _) ?_)) (by simp)
    exact quiet_of_dispatched hcmd
  | readWatch words w hands =>
    have hcmd := cmd_of_hands hands
    exact h.ofHanded hcmd ((h.port.updWatch w _).report (quiet_of_dispatched (s := s) hcmd) _ _) rfl
  | timerAnswer _ words st rs hcmd =>
    have hanswered := settled.report (quiet_settleTimers hcmd) st rs
    have hwork : (s.settleTimers.report st rs).work = s.work := by rw [report_work, settleTimers_eq]
    exact h.ofHanded hcmd hanswered hwork
  | timerSet _ words k f hcmd =>
    have hquiet : (s.settleTimers.updTimer k f).cmd.quiet = true := by
      rw [updTimer_cmd]
      exact quiet_settleTimers hcmd
    have hanswered := (partStable_portLaw.timer k f settled).report hquiet .ok []
    have hwork : ((s.settleTimers.updTimer k f).report .ok []).work = s.work := by
      rw [report_work, updTimer_work, settleTimers_eq]
    exact h.ofHanded hcmd hanswered hwork
  | holdRegion _ words n r _ hcmd =>
    have hheld : PortLaw { s with pendingRegion := some (n, r) } :=
      h.port.ofKept rfl rfl rfl (.of_same rfl rfl rfl rfl rfl)
    exact h.ofHanded hcmd (hheld.report (quiet_of_dispatched (s := s) hcmd) _ _) rfl
  | installRing words base size hands _ hfree =>
    have hcmd := cmd_of_hands hands
    simp only [State.ringFree, Bool.and_eq_true, beq_iff_eq] at hfree
    refine h.ofHanded hcmd (h.port.ofKept (by simp [State.installRing]) (by simp [State.installRing])
      (by simp [State.installRing]) ?_) (by simp [State.installRing])
    exact ⟨.inl (by simp [State.installRing]), fun r hr hopen => ⟨r, by simpa [State.installRing] using hr, hopen⟩,
      by simp [State.installRing], .inr hfree, .inr (quiet_of_dispatched hcmd)⟩
  | holdRing words base size hands =>
    have hcmd := cmd_of_hands hands
    refine h.ofHanded hcmd (h.port.ofKept (by simp) (by simp) (by simp) ?_) (by simp)
    exact ⟨.inl (by simp), fun r hr hopen => ⟨r, by simpa using hr, hopen⟩, by simp, .inl (by simp),
      .inr (quiet_of_dispatched hcmd)⟩
  | disarm words w hands =>
    have hcmd := cmd_of_handsEngine hands
    rw [freeWatch_eq]
    refine h.ofHanded hcmd (h.port.ofKept rfl rfl rfl ?_) rfl
    refine ⟨.inl rfl, fun r hr hopen => ?_, rfl, .inl ⟨rfl, rfl⟩, .inr (quiet_of_dispatched hcmd)⟩
    refine ⟨if r.watch = w then { r with stale := true } else r, ?_, ?_⟩
    · exact congrArg (Option.map _) hr
    · split <;> exact hopen
  | defineSteps words recs hands | defineEffects words recs hands =>
    have hcmd := cmd_of_handsEngine hands
    exact h.ofHanded hcmd
      (h.port.ofKept rfl rfl rfl { requestsKept_refl s with cmd := .inr (quiet_of_dispatched hcmd) }) rfl
  | loadQuest words q _ _ _ _ _ hands | unloadQuest words q hands | holdQuest words q hands =>
    have hcmd := cmd_of_handsEngine hands
    exact h.ofHanded hcmd
      (h.port.ofKept rfl rfl rfl { requestsKept_refl s with cmd := .inr (quiet_of_dispatched hcmd) }) rfl
  | startQuest words q hands =>
    have hquiet := quiet_of_dispatched (cmd_of_handsEngine hands)
    refine GrantsServed.runEngine (.ofPart (h.port.takeCommand hquiet) (fun code hcode => ?_) (isPart_beginQuest _ _ _ _))
    cases hcode
    exact takenCommand hands.1 rfl
  | resumeQuest words q hands =>
    have hcmd := cmd_of_handsEngine hands
    have htaken := h.port.takeCommand (quiet_of_dispatched hcmd)
    have hresumed := partStable_portLaw.quest q (fun c => { c with state := .active, late := false }) htaken
    refine h.ofHanded hcmd (hresumed.report ?_ _ _) (by simp)
    rw [updQuest_cmd, takeCommand_of_dispatched hcmd]
    rfl
  | resumeLate words q hands =>
    have htaken := h.port.takeCommand (quiet_of_dispatched (cmd_of_handsEngine hands))
    have hresumed := partStable_portLaw.quest q (fun c => { c with state := .active, late := false }) htaken
    refine .beginWork hresumed _ _ _ _ fun code hcode => ?_
    cases hcode
    exact takenCommand hands.1 rfl
  | abandonQuest words q hands =>
    have htaken := h.port.takeCommand (quiet_of_dispatched (cmd_of_handsEngine hands))
    refine .beginWork htaken _ _ _ _ fun code hcode => ?_
    cases hcode
    exact takenCommand hands.1 rfl
  | engineGoesOn => exact h.runEngine
  | takeWatchEntry v writer depth rest | timeoutExpiry _ _ rest =>
    have htaken : PortLaw { s with queue := rest } := h.port.ofKept rfl rfl rfl (.of_same rfl rfl rfl rfl rfl)
    refine .beginWork htaken _ _ _ _ fun code hcode => ?_
    cases hcode
  | denyEffect j =>
    refine GrantsServed.effectReported ?_ _
    exact h.endGrant rfl rfl rfl rfl rfl
  | effectSettled old new hunit =>
    refine GrantsServed.effectReported ?_ _
    exact h.congr (h.port.settled hunit) (by rw [settleTimers_eq]) (by rw [settleTimers_eq])
  | completeSync | endGrant | orphanWrite | orphanEffect | grantEffect | faultWord | causeWord | vectorWord
  | resetCauseWord | resetVectorWord | elementWord | lastElementWord | ringProduceWord =>
    exact h.endGrant rfl rfl rfl rfl rfl
  | publishElement =>
    rw [publishElement_eq]
    exact h.endGrant rfl rfl rfl rfl rfl
  | ringConsumeWord =>
    rw [writerFree_eq]
    exact h.endGrant rfl rfl rfl rfl rfl
  | ringAnswered words _ _ hcmd hcode =>
    rw [writerFree_eq]
    refine ⟨h.port.endGrant rfl rfl rfl, h.work.of_other rfl fun ws hws => ?_⟩
    rw [hcmd] at hws
    cases hws
    rw [hcode]
    rfl
  | fetch words _ hcmd =>
    rw [fetched_eq]
    refine ⟨h.port.endGrant rfl rfl rfl, h.work.of_other rfl fun ws hws => ?_⟩
    rw [hcmd] at hws
    cases hws
  | resultWord st next r rest _ hcmd =>
    refine ⟨h.port.endGrant rfl rfl rfl, h.work.of_other rfl fun ws hws => ?_⟩
    rw [hcmd] at hws
    cases hws
  | statusWord st next rs _ hcmd =>
    rw [writeStatus_eq]
    refine ⟨h.port.endGrant rfl rfl rfl, h.work.of_other rfl fun ws hws => ?_⟩
    rw [hcmd] at hws
    cases hws
  | consumeIndex hport =>
    have hcmd : s.cmd = .advancing := h.port.ir _ hport
    rw [writeConsume_eq]
    refine ⟨h.port.endGrant rfl rfl rfl, h.work.of_other rfl fun ws hws => ?_⟩
    rw [hcmd] at hws
    cases hws

/-! ### The reaction -/

theorem effectRequest_stands {s : State} {a : IRAccess} (h : s.effectRequest = some a) : s.requestStands a := by
  unfold State.effectRequest at h
  split at h
  · next j hunit =>
    cases h
    exact ⟨j, hunit⟩
  all_goals cases h

theorem watchRequest_stands {s : State} {a : IRAccess} (h : s.watchRequest = some a) : s.requestStands a := by
  unfold State.watchRequest at h
  split at h
  · next r hr =>
    split at h
    · cases h
    · next hopen =>
      cases h
      exact ⟨r, hr, by simpa using hopen⟩
  · cases h

theorem causeRequest_stands {s : State} {a : IRAccess} (h : s.causeRequest = some a) : s.requestStands a := by
  unfold State.causeRequest at h
  split at h
  · cases h
  · next hpub =>
    split at h <;> cases h <;> exact hpub
  · next hpub =>
    cases h
    exact hpub
  · next hpub =>
    cases h
    exact .inl hpub
  · next hpub =>
    cases h
    exact .inr hpub

theorem noticeRequest_stands {s : State} {a : IRAccess} (h : s.noticeRequest = some a) : s.requestStands a := by
  unfold State.noticeRequest at h
  split at h
  · next k hwriter =>
    cases h
    exact ⟨k, hwriter⟩
  · next hwriter =>
    cases h
    exact hwriter
  · next hidle =>
    split at h
    · cases h
    · next hmore =>
      cases h
      exact ⟨hidle, hmore⟩

theorem commandRequest_stands {s : State} {a : IRAccess} (h : s.commandRequest = some a) : s.requestStands a := by
  unfold State.commandRequest at h
  split at h
  · cases h
  · next ws hcmd =>
    cases h
    exact ⟨ws, hcmd⟩
  · cases h
  · next st k rs hcmd =>
    cases rs with
    | nil =>
      cases h
      exact ⟨st, k, hcmd⟩
    | cons r rest =>
      cases h
      exact ⟨st, k, r, rest, hcmd⟩
  · next hcmd =>
    cases h
    exact hcmd

/-- R149: what the internal requester asks for stands at one of its sub-clients. -/
theorem irRequest_stands {s : State} {a : IRAccess} (h : s.irRequest = some a) : s.requestStands a := by
  unfold State.irRequest at h
  simp only [Option.orElse_eq_orElse, Option.orElse_eq_or, Option.or_eq_some_iff] at h
  obtain heffect | ⟨-, hwatch | ⟨-, hcause | ⟨-, hnotice | ⟨-, hcommand⟩⟩⟩⟩ := h
  · exact effectRequest_stands heffect
  · exact watchRequest_stands hwatch
  · exact causeRequest_stands hcause
  · exact noticeRequest_stands hnotice
  · exact commandRequest_stands hcommand

/-- R148: the arbiter grants only what is asked for. -/
theorem chooseGrant_cases {ir : Option IRAccess} {proc scan previousIR : Bool} {last : Master} {g : Grant}
    (h : chooseGrant ir proc scan previousIR last = some g) :
    (∃ a, ir = some a ∧ g = .ir a) ∨ g = .master .proc ∧ proc = true ∨ g = .master .scan ∧ scan = true := by
  have hother : Grant.master (otherMaster last) = .master .proc ∨ Grant.master (otherMaster last) = .master .scan := by
    cases last
    · exact .inr rfl
    · exact .inl rfl
  unfold chooseGrant at h
  split at h
  · cases h
  · next a =>
    cases h
    exact .inl ⟨a, rfl, rfl⟩
  · cases h
    exact .inr (.inl ⟨rfl, rfl⟩)
  · cases h
    exact .inr (.inr ⟨rfl, rfl⟩)
  · cases h
    exact .inr (hother.imp (⟨·, rfl⟩) (⟨·, rfl⟩))
  · next a =>
    split at h <;> cases h
    · exact .inr (.inl ⟨rfl, rfl⟩)
    · exact .inl ⟨a, rfl, rfl⟩
  · next a =>
    split at h <;> cases h
    · exact .inr (.inr ⟨rfl, rfl⟩)
    · exact .inl ⟨a, rfl, rfl⟩
  · next a =>
    split at h <;> cases h
    · exact .inr (hother.imp (⟨·, rfl⟩) (⟨·, rfl⟩))
    · exact .inl ⟨a, rfl, rfl⟩

/-- R169: a publication begins while the cause unit asks for nothing. -/
theorem servedKept_beginPublication (s : State) : ServedKept s s.beginPublication := by
  intro a _ hstands
  unfold State.beginPublication
  split
  · next hbegins =>
    simp only [Bool.and_eq_true, decide_eq_true_eq] at hbegins
    obtain ⟨hidle, -⟩ := hbegins
    cases a with
    | faultWrite | causeWrite | vectorWrite => exact absurd (hidle.symm.trans hstands) (by decide)
    | resetWrite =>
      obtain hpub | hpub := hstands
      · exact absurd (hidle.symm.trans hpub) (by decide)
      · exact absurd (hidle.symm.trans hpub) (by decide)
    | _ => exact hstands
  · exact hstands

theorem PortLaw.beginPublication {s : State} (h : PortLaw s) : PortLaw s.beginPublication := by
  refine h.keep (by simp) (fun m hm => ?_) (servedKept_beginPublication s)
  cases m
  · exact (congrArg (fun p => p.access.isSome) (beginPublication_procPort s)).trans hm
  · exact (congrArg (fun p => p.access.isSome) (beginPublication_scanPort s)).trans hm

/-- What the arbiter may do: nothing, or a choice of a grant for the free port of a part that is not held. -/
theorem arbitrate_cases (s : State) :
    s.arbitrate = s
      ∨ s.mpa.hold = false
        ∧ s.arbitrate =
          { s with
            mpa.port :=
              chooseGrant s.irRequest s.procPort.access.isSome s.scanPort.access.isSome s.mpa.previousIR
                s.mpa.lastMaster } := by
  unfold State.arbitrate
  split
  · exact .inl rfl
  · next hfree =>
    simp only [Bool.or_eq_true, not_or, Bool.not_eq_true] at hfree
    obtain ⟨⟨-, hhold⟩, -⟩ := hfree
    exact .inr ⟨hhold, rfl⟩

theorem PortLaw.arbitrate {s : State} (h : PortLaw s) : PortLaw s.arbitrate := by
  obtain hsame | ⟨hhold, hgrant⟩ := arbitrate_cases s
  · rwa [hsame]
  · rw [hgrant]
    refine ⟨fun m hm => ?_, fun a ha => ?_, fun hheld => ?_, h.hold, h.zero⟩
    · obtain ⟨a, -, heq⟩ | ⟨heq, hproc⟩ | ⟨heq, hscan⟩ := chooseGrant_cases hm
      · cases heq
      · cases heq
        exact hproc
      · cases heq
        exact hscan
    · obtain ⟨b, hb, heq⟩ | ⟨heq, -⟩ | ⟨heq, -⟩ := chooseGrant_cases ha
      · cases heq
        exact irRequest_stands hb
      · cases heq
      · cases heq
    · exact absurd (hhold.symm.trans hheld) (by decide)

theorem keptByEffects_grantsServed : KeptByEffects GrantsServed where
  pending _ h := h.ofKept rfl rfl rfl (.of_same rfl rfl rfl rfl rfl) rfl rfl
  powerOn _ _ _ := by
    refine ⟨⟨fun m hm => ?_, fun a ha => ?_, fun _ => rfl, rfl, Nat.zero_le _⟩, .of_idle rfl⟩
    · cases hm
    · cases ha
  deassert h := h.ofKept rfl rfl rfl (.of_same rfl rfl rfl rfl rfl) rfl rfl
  react h := h.congr h.port.beginPublication.arbitrate (react_work _) (react_cmd _)
  effect h heff := h.effect heff

/-- Settles O58. -/
theorem stepsKeepGrantsToRequests : Obligations.StepsKeepGrantsToRequests := by
  intro s t h hstep
  obtain ⟨hport, hwork⟩ := grantLaw_iff.mp h
  obtain ⟨hport', hwork'⟩ := keptByEffects_grantsServed.step ⟨hport, hwork⟩ hstep
  exact grantLaw_iff.mpr ⟨hport', hwork'⟩

end Sys2Proof.Machine
end

section
/-! PROOFS. What each block has yet to take of the snoop stream, in order, and what the stream's operations make of it. The
laws of the copies and of the shadows speak of the stream through this list alone. -/

namespace Sys2Proof.Machine

open Sys2Proof

/-! ### The list that a block has yet to take -/

/-- The bodies of the items that a block has yet to take, oldest first. -/
def awaited (b : Snooper) (l : List StreamItem) : List StreamBody :=
  l.filterMap fun it => if it.due b then some it.body else none

theorem awaited_cons (b : Snooper) (it : StreamItem) (l : List StreamItem) :
    awaited b (it :: l) = if it.due b then it.body :: awaited b l else awaited b l := by
  unfold awaited
  rw [List.filterMap_cons]
  cases it.due b <;> rfl

theorem due_taken_self (it : StreamItem) (b : Snooper) : (it.taken b).due b = false := by cases b <;> rfl

theorem due_taken_other (it : StreamItem) {b c : Snooper} (h : b ≠ c) : (it.taken c).due b = it.due b := by
  cases b with
  | watch =>
    cases c with
    | watch => exact absurd rfl h
    | fog | page => rfl
  | fog =>
    cases c with
    | fog => exact absurd rfl h
    | watch | page => rfl
  | page =>
    cases c with
    | page => exact absurd rfl h
    | watch | fog => rfl

theorem body_taken (it : StreamItem) (b : Snooper) : (it.taken b).body = it.body := by cases b <;> rfl

theorem awaited_cons_taken_other (it : StreamItem) {b c : Snooper} (h : b ≠ c) (l : List StreamItem) :
    awaited b (it.taken c :: l) = if it.due b then it.body :: awaited b l else awaited b l := by
  rw [awaited_cons, due_taken_other it h, body_taken]

theorem awaited_passOver_self (concerns : StreamBody → Bool) (b : Snooper) (l : List StreamItem) :
    awaited b (passOver concerns b l) = (awaited b l).dropWhile fun x => !concerns x := by
  induction l with
  | nil => rfl
  | cons it rest ih =>
    unfold passOver
    cases hdue : it.due b with
    | false => simp [awaited_cons, hdue, ih]
    | true =>
      cases hconcern : concerns it.body with
      | false => simp [awaited_cons, hdue, due_taken_self, ih, hconcern]
      | true => simp [awaited_cons, hdue, hconcern]

theorem awaited_passOver_other (concerns : StreamBody → Bool) {b c : Snooper} (h : b ≠ c) (l : List StreamItem) :
    awaited b (passOver concerns c l) = awaited b l := by
  induction l with
  | nil => rfl
  | cons it rest ih =>
    unfold passOver
    split
    · split
      · rfl
      · rw [awaited_cons_taken_other it h, awaited_cons, ih]
    · rw [awaited_cons, awaited_cons, ih]

theorem awaited_filter_standing (b : Snooper) (l : List StreamItem) :
    awaited b (l.filter StreamItem.standing) = awaited b l := by
  induction l with
  | nil => rfl
  | cons it rest ih =>
    rw [List.filter_cons]
    split
    · rw [awaited_cons, awaited_cons, ih]
    · next hgone =>
      have hdue : it.due b = false := by
        simp only [StreamItem.standing, Bool.or_eq_true, not_or, Bool.not_eq_true] at hgone
        obtain ⟨⟨hwatch, hfog⟩, hpage⟩ := hgone
        cases b
        · exact hwatch
        · exact hfog
        · exact hpage
      rw [awaited_cons, hdue, ih]
      rfl

theorem awaited_takeFirst_self (b : Snooper) (l : List StreamItem) : awaited b (takeFirst b l) = (awaited b l).tail := by
  induction l with
  | nil => rfl
  | cons it rest ih =>
    unfold takeFirst
    cases hdue : it.due b with
    | false => simp [awaited_cons, hdue, ih]
    | true => simp [awaited_cons, hdue, due_taken_self]

theorem awaited_takeFirst_other {b c : Snooper} (h : b ≠ c) (l : List StreamItem) :
    awaited b (takeFirst c l) = awaited b l := by
  induction l with
  | nil => rfl
  | cons it rest ih =>
    unfold takeFirst
    split
    · rw [awaited_cons_taken_other it h, awaited_cons]
    · rw [awaited_cons, awaited_cons, ih]

theorem awaited_append_new (b : Snooper) (l : List StreamItem) (body : StreamBody) :
    awaited b (l ++ [{ body := body, watchDue := true, fogDue := true, pageDue := true }]) = awaited b l ++ [body] := by
  unfold awaited
  rw [List.filterMap_append]
  cases b <;> rfl

/-! ### The operations of the state -/

def State.awaited (s : State) (b : Snooper) : List StreamBody := Machine.awaited b s.stream

theorem awaited_of_stream {s t : State} (h : t.stream = s.stream) (b : Snooper) : t.awaited b = s.awaited b := by
  unfold State.awaited
  rw [h]

theorem nextFor_eq (s : State) (b : Snooper) : s.nextFor b = (s.awaited b).head? := by
  unfold State.nextFor State.awaited
  induction s.stream with
  | nil => rfl
  | cons it rest ih =>
    rw [awaited_cons, List.find?_cons]
    cases it.due b with
    | false => exact ih
    | true => rfl

/-- R151: tidying passes a block over what does not concern it, up to the first item that does. -/
theorem awaited_tidyStream (s : State) (b : Snooper) :
    s.tidyStream.awaited b = if b = .watch then s.awaited b else (s.awaited b).dropWhile fun x => !s.concerns b x := by
  unfold State.awaited State.tidyStream
  rw [awaited_filter_standing]
  cases b
  · rw [awaited_passOver_other _ (by decide), awaited_passOver_other _ (by decide)]
    rfl
  · rw [awaited_passOver_other _ (by decide), awaited_passOver_self]
    rfl
  · rw [awaited_passOver_self, awaited_passOver_other _ (by decide)]
    rfl

theorem awaited_pushStream_watch (s : State) (body : StreamBody) :
    (s.pushStream body).awaited .watch = s.awaited .watch ++ [body] := by
  unfold State.pushStream
  rw [awaited_tidyStream, if_pos rfl]
  exact awaited_append_new .watch s.stream body

theorem awaited_pushStream_passing (s : State) (body : StreamBody) {b : Snooper} (hb : b ≠ .watch) :
    (s.pushStream body).awaited b = (s.awaited b ++ [body]).dropWhile fun x => !s.concerns b x := by
  unfold State.pushStream
  rw [awaited_tidyStream, if_neg hb]
  exact congrArg (List.dropWhile _) (awaited_append_new b s.stream body)

theorem awaited_takeFor_watch (s : State) : (s.takeFor .watch).awaited .watch = (s.awaited .watch).tail := by
  unfold State.takeFor
  rw [awaited_tidyStream, if_pos rfl]
  exact awaited_takeFirst_self .watch s.stream

theorem awaited_takeFor_self (s : State) {b : Snooper} (hb : b ≠ .watch) :
    (s.takeFor b).awaited b = (s.awaited b).tail.dropWhile fun x => !s.concerns b x := by
  unfold State.takeFor
  rw [awaited_tidyStream, if_neg hb]
  exact congrArg (List.dropWhile _) (awaited_takeFirst_self b s.stream)

theorem awaited_takeFor_other (s : State) {b c : Snooper} (h : b ≠ c) :
    (s.takeFor c).awaited b = if b = .watch then s.awaited b else (s.awaited b).dropWhile fun x => !s.concerns b x := by
  have hsame : Machine.awaited b (takeFirst c s.stream) = s.awaited b := awaited_takeFirst_other h s.stream
  unfold State.takeFor
  rw [awaited_tidyStream]
  split
  · exact hsame
  · exact congrArg (List.dropWhile _) hsame

/-! ### A word with the writes that stand for it -/

/-- A word after the writes of its address in a list of bodies. -/
def mergeAt (a : Nat) (word : Word) (bodies : List StreamBody) : Word :=
  bodies.foldl
    (fun acc body =>
      match body with
      | .write e => if e.addr = a then mergeLanes e.lanes acc e.data else acc
      | .syncMark _ => acc)
    word

theorem mergeAt_nil (a : Nat) (word : Word) : mergeAt a word [] = word := rfl

theorem mergeAt_cons_write (a : Nat) (word : Word) (e : SnoopWrite) (rest : List StreamBody) :
    mergeAt a word (.write e :: rest) = mergeAt a (if e.addr = a then mergeLanes e.lanes word e.data else word) rest := rfl

theorem mergeAt_cons_mark (a : Nat) (word mark : Word) (rest : List StreamBody) :
    mergeAt a word (.syncMark mark :: rest) = mergeAt a word rest := rfl

theorem mergeAt_append_write (a : Nat) (word : Word) (bodies : List StreamBody) (e : SnoopWrite) :
    mergeAt a word (bodies ++ [.write e]) =
      if e.addr = a then mergeLanes e.lanes (mergeAt a word bodies) e.data else mergeAt a word bodies := by
  unfold mergeAt
  rw [List.foldl_append]
  rfl

theorem mergeAt_append_mark (a : Nat) (word : Word) (bodies : List StreamBody) (mark : Word) :
    mergeAt a word (bodies ++ [.syncMark mark]) = mergeAt a word bodies := by
  unfold mergeAt
  rw [List.foldl_append]
  rfl

/-- The items that are passed over are not writes of the address. -/
theorem mergeAt_dropWhile {a : Nat} (concerns : StreamBody → Bool)
    (h : ∀ e : SnoopWrite, e.addr = a → concerns (.write e) = true) (word : Word) (bodies : List StreamBody) :
    mergeAt a word (bodies.dropWhile fun x => !concerns x) = mergeAt a word bodies := by
  induction bodies generalizing word with
  | nil => rfl
  | cons body rest ih =>
    cases hconcern : concerns body with
    | true => simp [hconcern]
    | false =>
      rw [List.dropWhile_cons_of_pos (by simp [hconcern]), ih]
      cases body with
      | syncMark mark => rfl
      | write e =>
        have hne : e.addr ≠ a := fun heq => by
          rw [h e heq] at hconcern
          cases hconcern
        rw [mergeAt_cons_write, if_neg hne]

theorem afterWrites_eq (b : Snooper) (a : Nat) (word : Word) (l : List StreamItem) :
    afterWrites b a word l = mergeAt a word (awaited b l) := by
  induction l generalizing word with
  | nil => rfl
  | cons it rest ih =>
    rw [awaited_cons]
    change afterWrites b a (match it.body with
      | .write e => if it.due b && e.addr == a then mergeLanes e.lanes word e.data else word
      | .syncMark _ => word) rest = _
    rw [ih]
    cases hdue : it.due b with
    | false => cases it.body <;> rfl
    | true =>
      cases hbody : it.body with
      | syncMark mark => rfl
      | write e =>
        rw [if_pos rfl, mergeAt_cons_write]
        simp

end Sys2Proof.Machine
end

section
/-! PROOFS. The addresses that the part writes words to are multiples of 4: what each step may add to them. -/

namespace Sys2Proof.Machine

open Sys2Proof

/-! ### The addresses of the control page and of the rings -/

theorem pageAddr_aligned (s : State) {off : Nat} (h : off % 4 = 0) : s.pageAddr off % 4 = 0 := by
  have hbase : s.pageBase % 4 = 0 := by
    unfold State.pageBase
    cases s.msz256 <;> cases s.cpselHigh <;> rfl
  unfold State.pageAddr
  omega

theorem wordAddrOf_aligned (a : Access) : wordAddrOf a % 4 = 0 := Nat.mul_mod_left _ _

theorem slotAddr_aligned (s : State) (k : Nat) : s.slotAddr k % 4 = 0 := by
  have hring := pageAddr_aligned s (off := ringOff) rfl
  unfold State.slotAddr
  omega

/-! ### The law as a structure -/

/-- The writes that stand in a stream are of word addresses that are multiples of 4. -/
def AlignedStream (l : List StreamItem) : Prop := ∀ it ∈ l, ∀ e, it.body = .write e → e.addr % 4 = 0

/-- The notice ring's base, installed or to be. -/
structure AlignedRing (n : NoticeWriter) : Prop where
  base : n.base % 4 = 0
  pending : ∀ c, n.pendingConfig = some c → c.1 % 4 = 0

/-- What a withdrawn grant has left to write. -/
structure AlignedPort (port : Option Grant) : Prop where
  effect : ∀ a j, port = some (.orphan a (.effect j)) → j.record.addr % 4 = 0
  write : ∀ a n w, port = some (.orphan a (.write n w)) → n % 4 = 0

structure Aligned (s : State) : Prop where
  pool : ∀ n, (s.effectRec n).addr % 4 = 0
  unit : ∀ j, s.effectUnit = .grantWait j → j.record.addr % 4 = 0
  port : AlignedPort s.mpa.port
  ring : AlignedRing s.notice
  stream : AlignedStream s.stream

theorem alignmentLaw_iff {s : State} : AlignmentLaw s ↔ Aligned s := by
  constructor
  · rintro ⟨hpool, hunit, heffect, hwrite, hbase, hpending, hstream⟩
    exact ⟨hpool, hunit, ⟨heffect, hwrite⟩, ⟨hbase, hpending⟩, hstream⟩
  · rintro ⟨hpool, hunit, ⟨heffect, hwrite⟩, ⟨hbase, hpending⟩, hstream⟩
    exact ⟨hpool, hunit, heffect, hwrite, hbase, hpending, hstream⟩

/-! ### The stream -/

theorem AlignedStream.of_bodies {l k : List StreamItem} (h : AlignedStream l)
    (hbodies : ∀ it ∈ k, it.body ∈ l.map StreamItem.body) : AlignedStream k := by
  intro it hit e hbody
  obtain ⟨d, hd, heq⟩ := List.mem_map.mp (hbodies it hit)
  exact h d hd e (heq.trans hbody)

theorem takeFirst_entries (b : Snooper) (l : List StreamItem) :
    (takeFirst b l).map StreamItem.body = l.map StreamItem.body := by
  induction l with
  | nil => rfl
  | cons it rest ih =>
    unfold takeFirst
    split
    · rw [List.map_cons, body_taken, List.map_cons]
    · rw [List.map_cons, ih, List.map_cons]

theorem AlignedStream.tidy {s : State} (h : AlignedStream s.stream) : AlignedStream s.tidyStream.stream := by
  refine h.of_bodies fun it hit => ?_
  have hpassed := List.mem_map_of_mem (f := StreamItem.body) (List.mem_of_mem_filter hit)
  rwa [passOver_entries, passOver_entries] at hpassed

theorem AlignedStream.push {s : State} (h : AlignedStream s.stream) {body : StreamBody}
    (hbody : ∀ e, body = .write e → e.addr % 4 = 0) : AlignedStream (s.pushStream body).stream := by
  refine AlignedStream.tidy fun it hit e he => ?_
  rcases List.mem_append.mp hit with hold | hnew
  · exact h it hold e he
  · rw [List.mem_singleton.mp hnew] at he
    exact hbody e he

theorem AlignedStream.takeFor {s : State} (h : AlignedStream s.stream) (b : Snooper) :
    AlignedStream (s.takeFor b).stream := by
  refine AlignedStream.tidy (h.of_bodies fun it hit => ?_)
  rw [← takeFirst_entries b]
  exact List.mem_map_of_mem hit

/-! ### Changes that keep the law -/

theorem alignedPort_none : AlignedPort none := ⟨nofun, nofun⟩

theorem effectRec_of_effects {s t : State} (h : t.effects = s.effects) (n : Nat) : t.effectRec n = s.effectRec n := by
  unfold State.effectRec
  rw [h]

/-- A change that leaves the addresses as they were, but for those of the stream. -/
theorem Aligned.keep {s t : State} (h : Aligned s) (heffects : t.effects = s.effects)
    (hunit : t.effectUnit = s.effectUnit) (hport : t.mpa.port = s.mpa.port) (hring : AlignedRing t.notice)
    (hstream : AlignedStream t.stream) : Aligned t where
  pool n := by
    rw [effectRec_of_effects heffects]
    exact h.pool n
  unit j hj := h.unit j (hunit.symm.trans hj)
  port := by
    rw [hport]
    exact h.port
  ring := hring
  stream := hstream

/-- The end of a grant. -/
theorem Aligned.endGrant {s t : State} (h : Aligned s) (heffects : t.effects = s.effects)
    (hunit : t.effectUnit = s.effectUnit ∨ ∀ j, t.effectUnit ≠ .grantWait j) (hport : t.mpa.port = none)
    (hring : AlignedRing t.notice) (hstream : AlignedStream t.stream) : Aligned t where
  pool n := by
    rw [effectRec_of_effects heffects]
    exact h.pool n
  unit j hj := by
    obtain hsame | hnone := hunit
    · exact h.unit j (hsame.symm.trans hj)
    · exact absurd hj (hnone j)
  port := by
    rw [hport]
    exact alignedPort_none
  ring := hring
  stream := hstream

theorem AlignedRing.of_same {m n : NoticeWriter} (h : AlignedRing m) (hbase : n.base = m.base)
    (hpending : n.pendingConfig = m.pendingConfig) : AlignedRing n where
  base := by
    rw [hbase]
    exact h.base
  pending := by
    rw [hpending]
    exact h.pending

theorem alignedRing_examineRing {s : State} (h : AlignedRing s.notice) : AlignedRing s.examineRing.notice := by
  obtain hsame | ⟨_, _, -, -, -, htaken⟩ := examineRing_cases s
  · rwa [hsame]
  · rw [htaken]
    exact h.of_same rfl rfl

theorem alignedRing_handNotice {s : State} (h : AlignedRing s.notice) (n : Notice) :
    AlignedRing (s.handNotice n).notice := by
  obtain hlost | ⟨-, hheld⟩ := handNotice_cases s n
  · rw [hlost]
    exact h
  · rw [hheld]
    exact alignedRing_examineRing (s := { s with notice := { s.notice with hold := _ } }) (h.of_same rfl rfl)

theorem alignedRing_writerFree {s : State} (h : AlignedRing s.notice) : AlignedRing s.writerFree.notice := by
  obtain hexamine | ⟨c, hpending, hinstall⟩ := writerFree_cases s
  · rw [hexamine]
    exact alignedRing_examineRing h
  · rw [hinstall]
    exact ⟨h.pending c hpending, fun _ hc => by cases hc⟩

theorem engineStable_aligned : EngineStable Aligned where
  quest _ _ h := ⟨h.pool, h.unit, h.port, h.ring, h.stream⟩
  timer _ _ h := ⟨h.pool, h.unit, h.port, h.ring, h.stream⟩
  expire _ h := ⟨h.pool, h.unit, h.port, h.ring, h.stream⟩
  notice n h := h.keep (by simp) (by simp) (by simp) (alignedRing_handNotice h.ring n) (by simpa using h.stream)
  unit j n hrecord h := by
    refine ⟨h.pool, fun k hk => ?_, h.port, h.ring, h.stream⟩
    cases hk
    rw [hrecord]
    exact h.pool n
  work _ h := ⟨h.pool, h.unit, h.port, h.ring, h.stream⟩
  answer _ _ h := ⟨h.pool, h.unit, h.port, h.ring, h.stream⟩

theorem watchStable_aligned : WatchStable Aligned where
  watch _ _ h := ⟨h.pool, h.unit, h.port, h.ring, h.stream⟩
  queue _ h := ⟨h.pool, h.unit, h.port, h.ring, h.stream⟩
  raise _ h := ⟨h.pool, h.unit, h.port, h.ring, h.stream⟩
  notice n h := engineStable_aligned.notice n h

/-! ### DEFINE EFFECTS (R95, R111) -/

theorem bitStringAddr_aligned {base : Nat} (h : base % 4 = 0) (index : Nat) : bitStringAddr base index % 4 = 0 := by
  unfold bitStringAddr
  omega

theorem parseEffect_aligned {a b c : Word} {r : EffectRec} (h : parseEffect a b c = .ok r) : r.addr % 4 = 0 := by
  unfold parseEffect at h
  split at h
  · cases h
  · split at h
    · split at h
      · cases h
      · next hgood =>
        cases h
        rw [not_or, not_ne_iff] at hgood
        exact bitStringAddr_aligned hgood.1 _
    · split at h
      · cases h
      · next hgood =>
        split at h
        · cases h
        · cases h
          rw [not_or, not_ne_iff] at hgood
          exact hgood.1

theorem parseRecords_forall {α : Type} {parse : Word → Word → Word → Except Status α} {P : α → Prop}
    (hparse : ∀ {a b c : Word} {r : α}, parse a b c = .ok r → P r) (words : List Word) (n : Nat) {i : Nat}
    {recs : List α} (h : parseRecords parse words i n = .ok recs) : ∀ r ∈ recs, P r := by
  induction n generalizing i recs with
  | zero =>
    cases h
    exact fun r hr => by cases hr
  | succ n ih =>
    unfold parseRecords at h
    split at h
    · cases h
    · next r hr =>
      split at h
      · cases h
      · next rest hrest =>
        cases h
        exact List.forall_mem_cons.mpr ⟨hparse hr, ih hrest⟩

theorem writeRecords_forall {α : Type} {n : Nat} {P : α → Prop} (recs : List α) (first : Nat) {table : Vector α n}
    (htable : ∀ (k : Nat) (hk : k < n), P table[k]) (hrecs : ∀ r ∈ recs, P r) (k : Nat) (hk : k < n) :
    P (writeRecords table first recs)[k] := by
  induction recs generalizing first table with
  | nil => exact htable k hk
  | cons r rest ih =>
    obtain ⟨hr, hrest⟩ := List.forall_mem_cons.mp hrecs
    refine ih (first + 1) (table := table.setIfInBounds first r) (fun j hj => ?_) hrest
    rw [Vector.getElem_setIfInBounds]
    split
    · exact hr
    · exact htable j hj

theorem effectRec_of_lt (s : State) {n : Nat} (h : n < 96) : s.effectRec n = s.effects[n] := dif_pos h

theorem Aligned.defineEffects {s : State} (h : Aligned s) (words : List Word) {n : Nat} {recs : List EffectRec}
    (hparse : parseRecords parseEffect words 0 n = .ok recs) (first : Nat) :
    Aligned { s with effects := writeRecords s.effects first recs } := by
  refine ⟨fun k => ?_, h.unit, h.port, h.ring, h.stream⟩
  by_cases hk : k < 96
  · rw [effectRec_of_lt _ hk]
    refine writeRecords_forall (P := fun r => r.addr % 4 = 0) recs first (fun j hj => ?_)
      (parseRecords_forall parseEffect_aligned words n hparse) k hk
    rw [← effectRec_of_lt s hj]
    exact h.pool j
  · rw [State.effectRec, dif_neg hk]
    rfl

/-! ### The warm reset (R162) -/

/-- What a withdrawn access has left to write is at a word address that is a multiple of 4. -/
theorem alignedPort_orphaned {s : State} (h : Aligned s) (a : IRAccess) : AlignedPort (some (s.orphaned a)) := by
  have hread : ∀ b, AlignedPort (some (.orphan b .read)) := fun b => ⟨nofun, nofun⟩
  have hir : ∀ b, AlignedPort (some (.ir b)) := fun b => ⟨nofun, nofun⟩
  have hwrite : ∀ b n w, n % 4 = 0 → AlignedPort (some (.orphan b (.write n w))) := by
    intro b n w hn
    refine ⟨nofun, fun c m v heq => ?_⟩
    cases heq
    exact hn
  cases a with
  | effectRmw =>
    simp only [State.orphaned]
    split
    · next j hunit =>
      refine ⟨fun c k heq => ?_, nofun⟩
      cases heq
      exact h.unit j hunit
    all_goals exact hread _
  | syncRead | produceWrite | ringIndexWrite => exact hir _
  | fetchRead => exact hread _
  | faultWrite | causeWrite | vectorWrite | consumeWrite => exact hwrite _ _ _ (pageAddr_aligned s rfl)
  | resetWrite =>
    refine hwrite _ _ _ ?_
    split
    · exact pageAddr_aligned s rfl
    · exact pageAddr_aligned s rfl
  | resultWrite =>
    simp only [State.orphaned]
    split
    · exact hwrite _ _ _ (slotAddr_aligned s _)
    all_goals exact hread _
  | statusWrite =>
    simp only [State.orphaned]
    split
    · exact hwrite _ _ _ (slotAddr_aligned s _)
    all_goals exact hread _
  | elementWrite =>
    simp only [State.orphaned]
    split
    · refine hwrite _ _ _ ?_
      have hbase := h.ring.base
      unfold State.elementAddr
      omega
    all_goals exact hread _

theorem Aligned.warmReset {s : State} (h : Aligned s) : Aligned s.warmReset := by
  rw [warmReset_eq]
  refine ⟨h.pool, nofun, ?_, ?_, h.stream⟩
  · unfold State.resetGrant
    split
    · exact alignedPort_none
    · exact ⟨nofun, nofun⟩
    · next a op hport => exact hport ▸ h.port
    · next a hport => exact alignedPort_orphaned h a
  · unfold NoticeWriter.warmReset
    split <;> exact ⟨h.ring.base, nofun⟩

/-! ### The effects -/

theorem alignedRing_of_accepted {s : State} {base size : Nat} (h : s.ringAccepted base size = true) : base % 4 = 0 := by
  unfold State.ringAccepted at h
  simp only [Bool.and_eq_true, beq_iff_eq] at h
  obtain ⟨⟨⟨⟨hbase, -⟩, -⟩, -⟩, -⟩ := h
  omega

theorem zeroOff_aligned (k : Nat) : zeroOff k % 4 = 0 := Nat.mul_mod_right 4 k

/-- A grant ends, and a word is written at an address that is a multiple of 4. -/
theorem Aligned.endStore {s t : State} (h : Aligned s) (e : SnoopWrite) (he : e.addr % 4 = 0)
    (heffects : t.effects = s.effects) (hunit : t.effectUnit = s.effectUnit ∨ ∀ j, t.effectUnit ≠ .grantWait j)
    (hport : t.mpa.port = none) (hring : AlignedRing t.notice) (hstream : t.stream = (s.pushStream (.write e)).stream) :
    Aligned t := by
  refine h.endGrant heffects hunit hport hring ?_
  rw [hstream]
  refine h.stream.push fun d hd => ?_
  cases hd
  exact he

theorem Aligned.partWrite {s t : State} (h : Aligned s) {n : Nat} (w : Word) (hn : n % 4 = 0)
    (heffects : t.effects = s.effects) (hunit : t.effectUnit = s.effectUnit)
    (hport : t.mpa.port = none) (hring : AlignedRing t.notice) (hstream : t.stream = (s.partWrite n w).stream) :
    Aligned t :=
  h.endStore { addr := n, lanes := Lanes.all, data := w, writer := .part, depth := 0, atPowerOn := false } hn heffects
    (.inl hunit) hport hring hstream

theorem Aligned.keepRing {s t : State} (h : Aligned s) (heffects : t.effects = s.effects)
    (hunit : t.effectUnit = s.effectUnit) (hport : t.mpa.port = s.mpa.port) (hnotice : t.notice = s.notice)
    (hstream : AlignedStream t.stream) : Aligned t :=
  h.keep heffects hunit hport (by rw [hnotice]; exact h.ring) hstream

theorem Aligned.keepAll {s t : State} (h : Aligned s) (heffects : t.effects = s.effects)
    (hunit : t.effectUnit = s.effectUnit) (hport : t.mpa.port = s.mpa.port) (hnotice : t.notice = s.notice)
    (hstream : t.stream = s.stream) : Aligned t :=
  h.keepRing heffects hunit hport hnotice (by rw [hstream]; exact h.stream)

theorem Aligned.takeSync {s : State} (h : Aligned s) (r : SyncRead) (word : Word) : Aligned (s.takeSync r word) := by
  have hnone : Aligned { s with syncRead := none } := ⟨h.pool, h.unit, h.port, h.ring, h.stream⟩
  have hsync := watchStable_aligned.syncWatch r.watch word hnone
  have hissue : ∀ {t : State}, Aligned t → Aligned t.issueSync := fun ht =>
    ht.keepAll (by simp) (by simp) (by simp) (by simp) (by simp)
  obtain ht | ⟨-, -, ht | ⟨-, ht⟩⟩ := takeSync_cases s r word
  · rw [ht]
    exact hissue hnone
  · rw [ht]
    exact hissue hsync
  · rw [ht]
    exact hissue (engineStable_aligned.answer _ _ hsync)

theorem Aligned.effect {s u : State} {c : Instr} (h : Aligned s) (heff : Effect s c u) : Aligned u := by
  have settled := engineStable_aligned.settleTimers h
  have taken : Aligned s.takeCommand := h.keepAll (by simp) (by simp) (by simp) (by simp) (by simp)
  have atWatch : Aligned (s.takeFor .watch) := h.keepRing rfl rfl rfl rfl (h.stream.takeFor _)
  have atFog : Aligned (s.takeFor .fog) := h.keepRing rfl rfl rfl rfl (h.stream.takeFor _)
  have atPage : Aligned (s.takeFor .page) := h.keepRing rfl rfl rfl rfl (h.stream.takeFor _)
  cases heff with
  | zeroWrite =>
    exact h.endStore
      { addr := s.pageAddr (zeroOff s.mpa.zeroNext), lanes := Lanes.all, data := 0, writer := .part, depth := 0
        atPowerOn := true }
      (pageAddr_aligned s (zeroOff_aligned _)) rfl (.inl rfl) rfl h.ring rfl
  | warmReset => exact h.warmReset
  | request | arm | resync => exact h.keepAll (by simp) (by simp) (by simp) (by simp) (by simp)
  | read | drop =>
    exact h.endGrant (by simp) (.inl (by simp)) rfl (by simpa using h.ring) (by simpa using h.stream)
  | refuse =>
    exact h.endGrant (by simp [State.refuseAccess]) (.inl (by simp [State.refuseAccess])) rfl
      (by simpa [State.refuseAccess] using h.ring) (by simpa [State.refuseAccess] using h.stream)
  | store m a =>
    refine h.endStore
      { addr := wordAddrOf a, lanes := lanesOf a, data := onLanes (lanesOf a) a.data, writer := masterWriter m
        depth := 0, atPowerOn := false }
      (wordAddrOf_aligned a) (by simp [State.masterStore]) (.inl (by simp [State.masterStore])) rfl
      (by simpa [State.masterStore] using h.ring) ?_
    simp only [State.masterStore, endMasterGrant_stream]
    rfl
  | clear a =>
    refine h.endStore
      { addr := s.pageAddr causeOff, lanes := Lanes.all, data := (s.cause.working &&& ~~~(clearSet a)).setWidth 32
        writer := .proc, depth := 0, atPowerOn := false }
      (pageAddr_aligned s rfl) (by simp [State.clearCauses]) (.inl (by simp [State.clearCauses])) rfl
      (by simpa [State.clearCauses] using h.ring) ?_
    simp only [State.clearCauses, endMasterGrant_stream]
    rfl
  | takeWrite e =>
    exact (watchStable_aligned.takeWrite e atWatch).keepAll (by simp) (by simp) (by simp) (by simp) (by simp)
  | takeSync r word => exact (atWatch.takeSync r word).keepAll (by simp) (by simp) (by simp) (by simp) (by simp)
  | takeReveal e => exact atFog.keepAll rfl rfl rfl rfl rfl
  | takeEnable e => exact atPage.keepAll rfl rfl rfl rfl rfl
  | takeTurn e =>
    rw [takeTurn_eq]
    exact atPage.keepAll rfl rfl rfl rfl rfl
  | takeProduceIndex e =>
    rw [takeProduceIndex_eq]
    exact atPage.keepAll rfl rfl rfl rfl rfl
  | takeConsumeIndex e =>
    simp only [State.takeConsumeIndex]
    split
    · exact atPage.keepAll rfl rfl rfl rfl rfl
    · obtain hd | ⟨-, hd⟩ := decideConsume_cases
        { s.takeFor .page with
          page := { s.page with consumeImage := mergeLanes e.lanes s.page.consumeImage e.data } }
        (mergeLanes e.lanes s.page.consumeImage e.data)
      · exact hd ▸ atPage.keepAll rfl rfl rfl rfl rfl
      · refine hd ▸ atPage.keep ?_ ?_ ?_ (alignedRing_examineRing ?_) ?_
        · simp
        · simp
        · simp
        · exact atPage.ring
        · simpa using atPage.stream
  | beat =>
    rw [clockEvent_eq]
    exact h.keepAll rfl rfl rfl rfl rfl
  | expiry k => exact engineStable_aligned.expire k h
  | completeSync r =>
    refine h.endGrant rfl (.inl rfl) rfl h.ring ?_
    exact AlignedStream.push (s := { s with syncRead := some { r with completed := true } }) h.stream nofun
  | timerAnswer => exact engineStable_aligned.answer _ _ settled
  | timerSet => exact engineStable_aligned.answer _ _ (engineStable_aligned.timer _ _ settled)
  | holdRegion => exact h.keepAll rfl rfl rfl rfl rfl
  | installRing words base size _ hok =>
    exact ⟨taken.pool, taken.unit, taken.port, ⟨alignedRing_of_accepted hok, nofun⟩, taken.stream⟩
  | holdRing words base size _ hok =>
    refine ⟨taken.pool, taken.unit, taken.port, ⟨taken.ring.base, fun c hc => ?_⟩, taken.stream⟩
    cases hc
    exact alignedRing_of_accepted hok
  | disarm =>
    rw [freeWatch_eq]
    exact h.keepAll rfl rfl rfl rfl rfl
  | defineEffects words recs _ hparse =>
    exact engineStable_aligned.answer _ _ (h.defineEffects words hparse _)
  | startQuest =>
    exact engineStable_aligned.runEngine (engineStable_aligned.ofPart (isPart_beginQuest _ _ _ _) taken)
  | resumeQuest => exact taken.keepAll rfl rfl rfl rfl rfl
  | resumeLate => exact engineStable_aligned.beginWork _ _ _ _ _ (engineStable_aligned.quest _ _ taken)
  | abandonQuest => exact engineStable_aligned.beginWork _ _ _ _ _ taken
  | engineGoesOn => exact engineStable_aligned.runEngine h
  | takeWatchEntry _ _ _ rest | timeoutExpiry _ _ rest =>
    have hrest : Aligned { s with queue := rest } := h.keepAll rfl rfl rfl rfl rfl
    exact engineStable_aligned.beginWork _ _ _ _ _ hrest
  | denyEffect j =>
    refine engineStable_aligned.effectReported _ ?_
    exact h.endGrant rfl (.inr nofun) rfl h.ring h.stream
  | effectSettled old new =>
    refine engineStable_aligned.effectReported _ ?_
    generalize s.settleTimers = v at settled
    exact ⟨settled.pool, nofun, settled.port, settled.ring, settled.stream⟩
  | grantEffect j _ hunit =>
    exact h.endStore
      { addr := j.record.addr, lanes := Lanes.all, data := j.newWord (readWord s.mem j.record.addr), writer := .effect
        depth := j.depth, atPowerOn := false }
      (h.unit j hunit) rfl (.inr nofun) rfl h.ring rfl
  | endGrant => exact h.endGrant rfl (.inl rfl) rfl h.ring h.stream
  | orphanWrite a n w _ hport => exact h.partWrite w (h.port.write a n w hport) rfl rfl rfl h.ring rfl
  | orphanEffect a j _ hport =>
    exact h.endStore
      { addr := j.record.addr, lanes := Lanes.all, data := j.newWord (readWord s.mem j.record.addr), writer := .effect
        depth := j.depth, atPowerOn := false }
      (h.port.effect a j hport) rfl (.inl rfl) rfl h.ring rfl
  | faultWord => exact h.partWrite s.fault.word (pageAddr_aligned s (off := faultOff) rfl) rfl rfl rfl h.ring rfl
  | causeWord =>
    exact h.partWrite ((s.cause.working ||| s.cause.arrivals).setWidth 32) (pageAddr_aligned s (off := causeOff) rfl)
      rfl rfl rfl h.ring rfl
  | vectorWord =>
    exact h.partWrite (BitVec.ofNat 32 s.vectorNow) (pageAddr_aligned s (off := vectorOff) rfl) rfl rfl rfl h.ring rfl
  | resetCauseWord => exact h.partWrite 0 (pageAddr_aligned s (off := causeOff) rfl) rfl rfl rfl h.ring rfl
  | resetVectorWord => exact h.partWrite 0 (pageAddr_aligned s (off := vectorOff) rfl) rfl rfl rfl h.ring rfl
  | elementWord k | lastElementWord k =>
    have hbase := h.ring.base
    have haddr : s.elementAddr k % 4 = 0 := by
      unfold State.elementAddr
      omega
    exact h.partWrite (s.elementWord k) haddr rfl rfl rfl (h.ring.of_same rfl rfl) rfl
  | publishElement =>
    refine h.partWrite (BitVec.ofNat 32 s.notice.produce) (pageAddr_aligned s (off := noticeProduceOff) rfl) ?_ ?_ ?_ ?_ ?_
    · rw [publishElement_eq]
      rfl
    · rw [publishElement_eq]
      rfl
    · rw [publishElement_eq]
      rfl
    · exact alignedRing_writerFree (h.ring.of_same rfl rfl)
    · rw [publishElement_eq]
      rfl
  | ringProduceWord =>
    exact h.partWrite 0 (pageAddr_aligned s (off := noticeProduceOff) rfl) rfl rfl rfl (h.ring.of_same rfl rfl) rfl
  | ringConsumeWord | ringAnswered =>
    refine h.partWrite 0 (pageAddr_aligned s (off := noticeConsumeOff) rfl) ?_ ?_ ?_ ?_ ?_
    · rw [writerFree_eq]
      rfl
    · rw [writerFree_eq]
      rfl
    · rw [writerFree_eq]
      rfl
    · exact alignedRing_writerFree (h.ring.of_same rfl rfl)
    · rw [writerFree_eq]
      rfl
  | fetch =>
    rw [fetched_eq]
    exact h.endGrant rfl (.inl rfl) rfl h.ring h.stream
  | resultWord st next r => exact h.partWrite r (slotAddr_aligned s next) rfl rfl rfl h.ring rfl
  | statusWord st =>
    rw [writeStatus_eq]
    exact h.partWrite (Machine.statusWord st) (slotAddr_aligned s 1) rfl rfl rfl h.ring rfl
  | consumeIndex =>
    rw [writeConsume_eq]
    exact h.partWrite (BitVec.ofNat 32 s.consumeIndex) (pageAddr_aligned s (off := consumeOff) rfl) rfl rfl rfl h.ring rfl
  | _ => exact h.keepAll rfl rfl rfl rfl rfl

theorem Aligned.react {s : State} (h : Aligned s) : Aligned s.react := by
  have hbegun : Aligned s.beginPublication := h.keepAll (by simp) (by simp) (by simp) (by simp) (by simp)
  unfold State.react
  generalize s.beginPublication = v at hbegun
  obtain hsame | ⟨-, hgrant⟩ := arbitrate_cases v
  · rwa [hsame]
  · rw [hgrant]
    have hfree : ∀ a op, chooseGrant v.irRequest v.procPort.access.isSome v.scanPort.access.isSome v.mpa.previousIR
        v.mpa.lastMaster ≠ some (.orphan a op) := by
      intro a op heq
      obtain ⟨b, -, hb⟩ | ⟨hb, -⟩ | ⟨hb, -⟩ := chooseGrant_cases heq <;> cases hb
    exact ⟨hbegun.pool, hbegun.unit, ⟨fun a j hj => absurd hj (hfree a _), fun a n w hw => absurd hw (hfree a _)⟩,
      hbegun.ring, hbegun.stream⟩

theorem aligned_poweredOn (s : State) (msz256 cpselHigh : Bool) : Aligned (s.poweredOn msz256 cpselHigh) := by
  refine ⟨fun n => ?_, nofun, alignedPort_none, ⟨rfl, nofun⟩, fun it hit => by cases hit⟩
  unfold State.effectRec
  split
  · simp [State.poweredOn, State.reset, EffectRec.zeroed]
  · rfl

theorem keptByEffects_aligned : KeptByEffects Aligned where
  pending _ h := h.keepAll rfl rfl rfl rfl rfl
  powerOn _ _ _ := aligned_poweredOn _ _ _
  deassert h := h.keepAll rfl rfl rfl rfl rfl
  react h := h.react
  effect h heff := h.effect heff

end Sys2Proof.Machine
end

section
/-! PROOFS. The traffic of a step: what it does to memory, to the snoop stream and to the copies of the host-owned words. -/

namespace Sys2Proof.Machine

open Sys2Proof

/-! ### The host-owned words and their copies (R140, R166 to R168) -/

/-- The words of the control page that a block keeps a copy of. -/
inductive HostWord
  | enable
  | turn
  | produce
  | consume
  | reveal (i : Fin 4)

namespace HostWord

/-- The block that keeps the copy. -/
def block : HostWord → Snooper
  | enable | turn | produce | consume => .page
  | reveal _ => .fog

def off : HostWord → Nat
  | enable => enableOff
  | turn => turnOff
  | produce => produceOff
  | consume => noticeConsumeOff
  | reveal i => revealOff + 4 * i.val

def copy (s : State) : HostWord → Word
  | enable => s.page.enable
  | turn => s.page.turn
  | produce => s.page.produceImage
  | consume => s.page.consumeImage
  | reveal i => s.reveal[i]

theorem block_ne_watch (x : HostWord) : x.block ≠ .watch := by cases x <;> exact fun h => by cases h

theorem off_aligned (x : HostWord) : x.off % 4 = 0 := by
  cases x with
  | reveal i =>
    change (0x010 + 4 * i.val) % 4 = 0
    omega
  | _ => rfl

/-- R151: the block takes every write of its words. -/
theorem concerns_of_addr (x : HostWord) {s : State} {e : SnoopWrite} (h : e.addr = s.pageAddr x.off) :
    s.concerns x.block (.write e) = true := by
  cases x with
  | reveal i =>
    have hi := i.isLt
    change s.isRevealWord e.addr = true
    unfold State.isRevealWord
    rw [h]
    unfold off State.pageAddr revealOff
    simp only [Bool.and_eq_true, decide_eq_true_eq]
    omega
  | _ =>
    change (e.addr == s.pageAddr enableOff || e.addr == s.pageAddr turnOff || e.addr == s.pageAddr produceOff
      || e.addr == s.pageAddr noticeConsumeOff) = true
    rw [h]
    simp [off]

theorem off_injective {x y : HostWord} (h : x.off = y.off) : x = y := by
  cases x <;> cases y <;> simp_all [off, enableOff, turnOff, produceOff, noticeConsumeOff, revealOff] <;> omega

end HostWord

/-- The copies of two states agree, and the straps: what the law of the copies rests on besides memory and the stream. -/
structure Beside (s t : State) : Prop where
  msz256 : t.msz256 = s.msz256
  cpselHigh : t.cpselHigh = s.cpselHigh
  copy : ∀ x : HostWord, x.copy t = x.copy s

theorem Beside.of_page {s t : State} (hmsz : t.msz256 = s.msz256) (hcpsel : t.cpselHigh = s.cpselHigh)
    (hpage : t.page = s.page) (hreveal : t.reveal = s.reveal) : Beside s t := by
  refine ⟨hmsz, hcpsel, fun x => ?_⟩
  cases x <;> simp only [HostWord.copy, hpage, hreveal]

/-- The fields of the page that are no copies of words, the accepted indexes, may change. -/
theorem Beside.of_copies {s t : State} (hmsz : t.msz256 = s.msz256) (hcpsel : t.cpselHigh = s.cpselHigh)
    (henable : t.page.enable = s.page.enable) (hturn : t.page.turn = s.page.turn)
    (hproduce : t.page.produceImage = s.page.produceImage) (hconsume : t.page.consumeImage = s.page.consumeImage)
    (hreveal : t.reveal = s.reveal) : Beside s t := by
  refine ⟨hmsz, hcpsel, fun x => ?_⟩
  cases x <;> simp only [HostWord.copy, henable, hturn, hproduce, hconsume, hreveal]

theorem pageAddr_of_straps {s t : State} (hmsz : t.msz256 = s.msz256) (hcpsel : t.cpselHigh = s.cpselHigh) (off : Nat) :
    t.pageAddr off = s.pageAddr off := by
  unfold State.pageAddr State.pageBase
  rw [hmsz, hcpsel]

/-- One body merged into a word. -/
def mergeOne (a : Nat) (word : Word) : StreamBody → Word
  | .write e => if e.addr = a then mergeLanes e.lanes word e.data else word
  | .syncMark _ => word

theorem mergeAt_cons (a : Nat) (word : Word) (body : StreamBody) (rest : List StreamBody) :
    mergeAt a word (body :: rest) = mergeAt a (mergeOne a word body) rest := by
  cases body <;> rfl

/-- The data and the memory of a store: the lanes of a word, at an address that is a multiple of 4. -/
structure Stores (s u : State) (e : SnoopWrite) (d : Word) : Prop where
  aligned : e.addr % 4 = 0
  data : ∀ x, mergeLanes e.lanes x e.data = mergeLanes e.lanes x d
  mem : u.mem = writeLanes s.mem e.addr e.lanes d
  stream : u.stream = (s.pushStream (.write e)).stream

/-- What the watch unit and its read do to the stream: a write or the read's completion is taken, or the completion
enters. -/
inductive WatchUnitTakes (s : State) : State → Prop
  | write (e : SnoopWrite) (hnext : s.nextFor .watch = some (.write e)) :
      WatchUnitTakes s ((s.takeFor .watch).takeWrite e).advanceWatchReset
  | sync (r : SyncRead) (word : Word) (hr : s.syncRead = some r) (hport : s.mpa.port ≠ some (.ir .syncRead))
      (hnext : s.nextFor .watch = some (.syncMark word)) :
      WatchUnitTakes s ((s.takeFor .watch).takeSync r word).advanceWatchReset
  | complete (r : SyncRead) (hr : s.syncRead = some r) (hport : s.mpa.port = some (.ir .syncRead)) :
      WatchUnitTakes s (s.completeSync r).endIRGrant

/-- What a step does to memory and the stream, with the copies and the count of the zero writes. -/
inductive Traffic (s u : State) : Prop
  | still (hmem : u.mem = s.mem) (hstream : u.stream = s.stream) (hbeside : Beside s u)
      (hzero : u.mpa.zeroNext = s.mpa.zeroNext)
  | stored (e : SnoopWrite) (d : Word) (hstore : Stores s u e d) (hbeside : Beside s u)
      (hzero : u.mpa.zeroNext = s.mpa.zeroNext
        ∨ u.mpa.zeroNext = s.mpa.zeroNext + 1 ∧ e.addr = s.pageAddr (zeroOff s.mpa.zeroNext) ∧ e.lanes = Lanes.all)
  | marked (word : Word) (htakes : WatchUnitTakes s u) (hmem : u.mem = s.mem)
      (hstream : u.stream = (s.pushStream (.syncMark word)).stream)
      (hbeside : Beside s u) (hzero : u.mpa.zeroNext = s.mpa.zeroNext)
  | taken (b : Snooper) (body : StreamBody) (htakes : b = .watch → WatchUnitTakes s u) (hnext : s.nextFor b = some body)
      (hmem : u.mem = s.mem) (hstream : u.stream = (s.takeFor b).stream) (hmsz : u.msz256 = s.msz256)
      (hcpsel : u.cpselHigh = s.cpselHigh)
      (hcopy : ∀ x : HostWord,
        x.copy u = if x.block = b then mergeOne (s.pageAddr x.off) (x.copy s) body else x.copy s)
      (hzero : u.mpa.zeroNext = s.mpa.zeroNext)

/-- R151: the write that the fog unit takes next is of a reveal word. -/
def FogHead (s : State) : Prop := ∀ e, s.nextFor .fog = some (.write e) → s.isRevealWord e.addr = true

theorem EngineKeeps.traffic {s v u : State} (hkeep : EngineKeeps v u) (hmem : v.mem = s.mem)
    (hstream : v.stream = s.stream) (hmsz : v.msz256 = s.msz256) (hcpsel : v.cpselHigh = s.cpselHigh)
    (hpage : v.page = s.page) (hreveal : v.reveal = s.reveal) (hzero : v.mpa.zeroNext = s.mpa.zeroNext) :
    Traffic s u :=
  .still (hkeep.mem_eq.trans hmem) (hkeep.stream_eq.trans hstream)
    (.of_page (hkeep.msz256_eq.trans hmsz) (hkeep.cpselHigh_eq.trans hcpsel) (hkeep.page_eq.trans hpage)
      (hkeep.reveal_eq.trans hreveal))
    ((congrArg Mpa.zeroNext hkeep.mpa_eq).trans hzero)

/-- The watch unit's takes leave the copies alone. -/
theorem Traffic.takenWatch {s u : State} {body : StreamBody} (htakes : WatchUnitTakes s u)
    (hnext : s.nextFor .watch = some body)
    (hmem : u.mem = s.mem) (hstream : u.stream = (s.takeFor .watch).stream) (hbeside : Beside s u)
    (hzero : u.mpa.zeroNext = s.mpa.zeroNext) : Traffic s u := by
  refine .taken .watch body (fun _ => htakes) hnext hmem hstream hbeside.msz256 hbeside.cpselHigh (fun x => ?_) hzero
  rw [if_neg x.block_ne_watch]
  exact hbeside.copy x

/-- The control-page unit takes a write of one of its words. -/
theorem Traffic.takenPage {s u : State} {e : SnoopWrite} (y : HostWord) (hpage : y.block = .page)
    (hnext : s.nextFor .page = some (.write e)) (haddr : e.addr = s.pageAddr y.off) (hmem : u.mem = s.mem)
    (hstream : u.stream = (s.takeFor .page).stream) (hmsz : u.msz256 = s.msz256) (hcpsel : u.cpselHigh = s.cpselHigh)
    (hself : y.copy u = mergeLanes e.lanes (y.copy s) e.data) (hother : ∀ x : HostWord, x ≠ y → x.copy u = x.copy s)
    (hzero : u.mpa.zeroNext = s.mpa.zeroNext) : Traffic s u := by
  refine .taken .page (.write e) nofun hnext hmem hstream hmsz hcpsel (fun x => ?_) hzero
  by_cases hx : x = y
  · rw [hx, if_pos hpage, hself]
    exact (if_pos haddr).symm
  · have hne : ¬e.addr = s.pageAddr x.off := fun heq =>
      hx (HostWord.off_injective (Nat.add_left_cancel (heq.symm.trans haddr)))
    rw [hother x hx]
    split
    · exact (if_neg hne).symm
    · rfl

theorem aligned_of_nextFor {s : State} (h : AlignedStream s.stream) {b : Snooper} {e : SnoopWrite}
    (hnext : s.nextFor b = some (.write e)) : e.addr % 4 = 0 := by
  obtain ⟨it, hit, hbody⟩ := Option.map_eq_some_iff.mp hnext
  exact h it (List.mem_of_find?_eq_some hit) e hbody

/-- A word address among the reveal words is that of the word that its index names. -/
theorem addr_of_isRevealWord {s : State} {a : Nat} (halign : a % 4 = 0) (h : s.isRevealWord a = true) :
    a = s.pageAddr (HostWord.reveal (s.revealIndex a)).off := by
  have hbase := pageAddr_aligned s (off := revealOff) rfl
  unfold State.isRevealWord at h
  simp only [Bool.and_eq_true, decide_eq_true_eq] at h
  obtain ⟨hlow, hhigh⟩ := h
  have hindex : (s.revealIndex a).val = (a - s.pageAddr revealOff) / 4 :=
    Nat.mod_eq_of_lt (by omega)
  have hoff : s.pageAddr (HostWord.reveal (s.revealIndex a)).off = s.pageAddr revealOff + 4 * (s.revealIndex a).val :=
    (Nat.add_assoc _ _ _).symm
  rw [hoff, hindex]
  omega

/-- R140: the fog unit takes a write of a reveal word. -/
theorem traffic_takeReveal {s : State} {e : SnoopWrite} (ha : Aligned s) (hfog : FogHead s)
    (hnext : s.nextFor .fog = some (.write e)) : Traffic s ((s.takeFor .fog).takeReveal e) := by
  have haddr : e.addr = s.pageAddr (HostWord.reveal (s.revealIndex e.addr)).off :=
    addr_of_isRevealWord (aligned_of_nextFor ha.stream hnext) (hfog e hnext)
  refine .taken .fog (.write e) nofun hnext rfl rfl rfl rfl (fun x => ?_) rfl
  have hmerge : mergeOne (s.pageAddr x.off) (x.copy s) (.write e) =
      if e.addr = s.pageAddr x.off then mergeLanes e.lanes (x.copy s) e.data else x.copy s := rfl
  cases x with
  | reveal j =>
    have hblock : (HostWord.reveal j).block = .fog := rfl
    rw [if_pos hblock, hmerge]
    change (s.reveal.set (s.revealIndex e.addr).val (mergeLanes e.lanes s.reveal[s.revealIndex e.addr] e.data)
      (s.revealIndex e.addr).isLt)[j.val] = _
    rw [Vector.getElem_set]
    by_cases hj : s.revealIndex e.addr = j
    · subst hj
      rw [if_pos rfl, if_pos haddr]
      rfl
    · have hne : ¬e.addr = s.pageAddr (HostWord.reveal j).off := fun heq => by
        have hoff := HostWord.off_injective (Nat.add_left_cancel (haddr.symm.trans heq))
        cases hoff
        exact hj rfl
      rw [if_neg fun hval => hj (Fin.ext hval), if_neg hne]
      rfl
  | _ => rfl

/-! ### The stores -/

/-- The internal requester's write of a word. -/
theorem Traffic.ofPartWrite {s u : State} {n : Nat} {w : Word} (hn : n % 4 = 0) (hmem : u.mem = (s.partWrite n w).mem)
    (hstream : u.stream = (s.partWrite n w).stream) (hbeside : Beside s u) (hzero : u.mpa.zeroNext = s.mpa.zeroNext) :
    Traffic s u :=
  .stored { addr := n, lanes := Lanes.all, data := w, writer := .part, depth := 0, atPowerOn := false } w
    ⟨hn, fun _ => rfl, hmem, hstream⟩ hbeside (.inl hzero)

theorem Traffic.ofEffectTransfer {s u : State} {j : EffectJob} (hj : j.record.addr % 4 = 0)
    (hmem : u.mem = (s.effectTransfer j).mem) (hstream : u.stream = (s.effectTransfer j).stream) (hbeside : Beside s u)
    (hzero : u.mpa.zeroNext = s.mpa.zeroNext) : Traffic s u :=
  .stored
    { addr := j.record.addr, lanes := Lanes.all, data := j.newWord (readWord s.mem j.record.addr), writer := .effect
      depth := j.depth, atPowerOn := false }
    (j.newWord (readWord s.mem j.record.addr)) ⟨hj, fun _ => rfl, hmem, hstream⟩ hbeside (.inl hzero)

/-- The lanes that are not selected do not come from the data (R5). -/
theorem mergeLanes_onLanes (l : Lanes) (old data : Word) : mergeLanes l old (onLanes l data) = mergeLanes l old data := by
  refine BitVec.eq_of_getLsbD_eq fun i hi => ?_
  rw [mergeLanes_getLsbD _ _ _ _ hi, mergeLanes_getLsbD _ _ _ _ hi]
  split
  · next hon =>
    have hmask : l.mask.getLsbD i = true := (mask_getLsbD l i hi).trans hon
    simp [onLanes, hmask]
  · rfl

/-- Every effect's traffic. That the fog unit takes a write of a reveal word is asked for where it takes one. -/
theorem Effect.traffic {s u : State} {c : Instr} (heff : Effect s c u) (ha : Aligned s)
    (hfog : ∀ e, u = (s.takeFor .fog).takeReveal e → FogHead s) : Traffic s u := by
  cases heff with
  | zeroWrite =>
    exact .stored
      { addr := s.pageAddr (zeroOff s.mpa.zeroNext), lanes := Lanes.all, data := 0, writer := .part, depth := 0
        atPowerOn := true } 0
      ⟨pageAddr_aligned s (zeroOff_aligned _), fun _ => rfl, rfl, rfl⟩ (.of_page rfl rfl rfl rfl)
      (.inr ⟨rfl, rfl, rfl⟩)
  | warmReset =>
    rw [warmReset_eq]
    exact .still rfl rfl (.of_page rfl rfl rfl rfl) rfl
  | request | arm | resync => exact .still (by simp) (by simp) (.of_page (by simp) (by simp) (by simp) (by simp)) (by simp)
  | read | drop => exact .still (by simp) (by simp) (.of_page (by simp) (by simp) (by simp) (by simp)) rfl
  | refuse =>
    refine .still ?_ ?_ (.of_page ?_ ?_ ?_ ?_) rfl <;> simp [State.refuseAccess]
  | store m a =>
    refine .stored
      { addr := wordAddrOf a, lanes := lanesOf a, data := onLanes (lanesOf a) a.data, writer := masterWriter m
        depth := 0, atPowerOn := false } a.data
      ⟨wordAddrOf_aligned a, fun x => mergeLanes_onLanes _ x _, by simp [State.masterStore], ?_⟩
      (.of_page ?_ ?_ ?_ ?_) (.inl rfl)
    · simp only [State.masterStore, endMasterGrant_stream]
      rfl
    all_goals simp [State.masterStore]
  | clear a =>
    refine .stored
      { addr := s.pageAddr causeOff, lanes := Lanes.all, data := (s.cause.working &&& ~~~(clearSet a)).setWidth 32
        writer := .proc, depth := 0, atPowerOn := false }
      ((s.cause.working &&& ~~~(clearSet a)).setWidth 32)
      ⟨pageAddr_aligned s rfl, fun _ => rfl, by simp [State.clearCauses, writeWord], ?_⟩
      (.of_page ?_ ?_ ?_ ?_) (.inl rfl)
    · simp only [State.clearCauses, endMasterGrant_stream]
      rfl
    all_goals simp [State.clearCauses]
  | takeWrite e hnext =>
    refine .takenWatch (.write e hnext) hnext ?_ ?_ (.of_page ?_ ?_ ?_ ?_) ?_
    · rw [advanceWatchReset_mem, takeWrite_eq, takeFor_mem]
    · rw [advanceWatchReset_stream, takeWrite_eq]
    · rw [advanceWatchReset_msz256, takeWrite_eq, takeFor_msz256]
    · rw [advanceWatchReset_cpselHigh, takeWrite_eq, takeFor_cpselHigh]
    · rw [advanceWatchReset_page, takeWrite_eq, takeFor_page]
    · rw [advanceWatchReset_reveal, takeWrite_eq, takeFor_reveal]
    · rw [advanceWatchReset_mpa, takeWrite_eq, takeFor_mpa]
  | takeSync r word hr hport hnext =>
    refine .takenWatch (.sync r word hr hport hnext) hnext ?_ ?_ (.of_page ?_ ?_ ?_ ?_) ?_
    · rw [advanceWatchReset_mem, takeSync_eq, takeFor_mem]
    · rw [advanceWatchReset_stream, takeSync_eq]
    · rw [advanceWatchReset_msz256, takeSync_eq, takeFor_msz256]
    · rw [advanceWatchReset_cpselHigh, takeSync_eq, takeFor_cpselHigh]
    · rw [advanceWatchReset_page, takeSync_eq, takeFor_page]
    · rw [advanceWatchReset_reveal, takeSync_eq, takeFor_reveal]
    · rw [advanceWatchReset_mpa, takeSync_eq, takeFor_mpa]
  | takeReveal e hnext => exact traffic_takeReveal ha (hfog e rfl) hnext
  | takeEnable e hnext haddr =>
    refine .takenPage .enable rfl hnext haddr rfl rfl rfl rfl rfl (fun x hx => ?_) rfl
    cases x with
    | enable => exact absurd rfl hx
    | _ => rfl
  | takeTurn e hnext haddr =>
    rw [takeTurn_eq]
    refine .takenPage .turn rfl hnext haddr rfl rfl rfl rfl rfl (fun x hx => ?_) rfl
    cases x with
    | turn => exact absurd rfl hx
    | _ => rfl
  | takeProduceIndex e hnext haddr =>
    rw [takeProduceIndex_eq]
    refine .takenPage .produce rfl hnext haddr rfl rfl rfl rfl rfl (fun x hx => ?_) rfl
    cases x with
    | produce => exact absurd rfl hx
    | _ => rfl
  | takeConsumeIndex e hnext haddr =>
    rw [takeConsumeIndex_eq]
    refine .takenPage .consume rfl hnext haddr rfl rfl rfl rfl rfl (fun x hx => ?_) rfl
    cases x with
    | consume => exact absurd rfl hx
    | _ => rfl
  | completeSync r hr hport =>
    exact .marked (readWord s.mem r.addr) (.complete r hr hport) rfl rfl (.of_page rfl rfl rfl rfl) rfl
  | beat => exact (keeps_clockEvent s .beat).traffic rfl rfl rfl rfl rfl rfl rfl
  | timerAnswer => exact (after_report (keeps_settleTimers s) _ _).traffic rfl rfl rfl rfl rfl rfl rfl
  | timerSet =>
    exact (after_report (after_updTimer (keeps_settleTimers s) _ _) _ _).traffic rfl rfl rfl rfl rfl rfl rfl
  | installRing words base size =>
    refine .still ?_ ?_ (.of_copies ?_ ?_ ?_ ?_ ?_ ?_ ?_) ?_ <;> simp [State.installRing]
  | holdRing => exact .still (by simp) (by simp) (.of_page (by simp) (by simp) (by simp) (by simp)) (by simp)
  | disarm =>
    rw [freeWatch_eq]
    exact .still rfl rfl (.of_page rfl rfl rfl rfl) rfl
  | startQuest words q => exact (keeps_startQuest s q).traffic rfl rfl rfl rfl rfl rfl rfl
  | resumeQuest words q => exact (after_report (keeps_resumeQuest s q) _ _).traffic rfl rfl rfl rfl rfl rfl rfl
  | resumeLate words q =>
    exact ((keeps_resumeQuest s q).trans (keeps_beginWork _ _ _ _ _ _)).traffic rfl rfl rfl rfl rfl rfl rfl
  | abandonQuest words q =>
    exact ((keeps_takeCommand s).trans (keeps_beginWork _ _ _ _ _ _)).traffic rfl rfl rfl rfl rfl rfl rfl
  | engineGoesOn => exact (keeps_runEngine s).traffic rfl rfl rfl rfl rfl rfl rfl
  | takeWatchEntry | timeoutExpiry => exact (keeps_beginWork _ _ _ _ _ _).traffic rfl rfl rfl rfl rfl rfl rfl
  | denyEffect j => exact (keeps_denyEffect _ j).traffic rfl rfl rfl rfl rfl rfl rfl
  | effectSettled old new => exact (keeps_effectSettled s _).traffic rfl rfl rfl rfl rfl rfl rfl
  | grantEffect j _ hunit => exact .ofEffectTransfer (ha.unit j hunit) rfl rfl (.of_page rfl rfl rfl rfl) rfl
  | orphanWrite a n w _ hport => exact .ofPartWrite (ha.port.write a n w hport) rfl rfl (.of_page rfl rfl rfl rfl) rfl
  | orphanEffect a j _ hport => exact .ofEffectTransfer (ha.port.effect a j hport) rfl rfl (.of_page rfl rfl rfl rfl) rfl
  | faultWord =>
    exact .ofPartWrite (n := s.pageAddr faultOff) (w := s.fault.word) (pageAddr_aligned s rfl) rfl rfl
      (.of_page rfl rfl rfl rfl) rfl
  | causeWord =>
    exact .ofPartWrite (n := s.pageAddr causeOff) (w := (s.cause.working ||| s.cause.arrivals).setWidth 32)
      (pageAddr_aligned s rfl) rfl rfl (.of_page rfl rfl rfl rfl) rfl
  | vectorWord =>
    exact .ofPartWrite (n := s.pageAddr vectorOff) (w := BitVec.ofNat 32 s.vectorNow) (pageAddr_aligned s rfl) rfl rfl
      (.of_page rfl rfl rfl rfl) rfl
  | resetCauseWord =>
    exact .ofPartWrite (n := s.pageAddr causeOff) (w := 0) (pageAddr_aligned s rfl) rfl rfl (.of_page rfl rfl rfl rfl) rfl
  | resetVectorWord =>
    exact .ofPartWrite (n := s.pageAddr vectorOff) (w := 0) (pageAddr_aligned s rfl) rfl rfl (.of_page rfl rfl rfl rfl) rfl
  | elementWord k | lastElementWord k =>
    have hbase := ha.ring.base
    have haddr : s.elementAddr k % 4 = 0 := by
      unfold State.elementAddr
      omega
    exact .ofPartWrite (n := s.elementAddr k) (w := s.elementWord k) haddr rfl rfl (.of_page rfl rfl rfl rfl) rfl
  | publishElement =>
    rw [publishElement_eq]
    exact .ofPartWrite (n := s.pageAddr noticeProduceOff) (w := BitVec.ofNat 32 s.notice.produce) (pageAddr_aligned s rfl)
      rfl rfl (.of_copies rfl rfl rfl rfl rfl rfl rfl) rfl
  | ringProduceWord =>
    exact .ofPartWrite (n := s.pageAddr noticeProduceOff) (w := 0) (pageAddr_aligned s rfl) rfl rfl
      (.of_page rfl rfl rfl rfl) rfl
  | ringConsumeWord | ringAnswered =>
    rw [writerFree_eq]
    exact .ofPartWrite (n := s.pageAddr noticeConsumeOff) (w := 0) (pageAddr_aligned s rfl) rfl rfl
      (.of_copies rfl rfl rfl rfl rfl rfl rfl) rfl
  | fetch =>
    rw [fetched_eq]
    exact .still rfl rfl (.of_page rfl rfl rfl rfl) rfl
  | resultWord st next r =>
    exact .ofPartWrite (n := s.slotAddr next) (w := r) (slotAddr_aligned s next) rfl rfl (.of_page rfl rfl rfl rfl) rfl
  | statusWord st =>
    rw [writeStatus_eq]
    exact .ofPartWrite (n := s.slotAddr 1) (w := Machine.statusWord st) (slotAddr_aligned s 1) rfl rfl
      (.of_page rfl rfl rfl rfl) rfl
  | consumeIndex =>
    rw [writeConsume_eq]
    exact .ofPartWrite (n := s.pageAddr consumeOff) (w := BitVec.ofNat 32 s.consumeIndex) (pageAddr_aligned s rfl) rfl rfl
      (.of_page rfl rfl rfl rfl) rfl
  | _ => exact .still rfl rfl (.of_page rfl rfl rfl rfl) rfl

end Sys2Proof.Machine
end

section
/-! PROOFS. The copies of the host-owned words: with the writes still to be taken, each is the word that memory holds. -/

namespace Sys2Proof.Machine

open Sys2Proof

/-- R140, R144, R160, R166 to R168: the copies, from the zero write of each word on. -/
structure CopiesHold (s : State) : Prop where
  word : ∀ x : HostWord, x.off / 4 < s.mpa.zeroNext →
    mergeAt (s.pageAddr x.off) (x.copy s) (s.awaited x.block) = readWord s.mem (s.pageAddr x.off)

theorem revealOff_div (i : Fin 4) : (HostWord.reveal i).off / 4 = 4 + i.val := by
  change (0x010 + 4 * i.val) / 4 = 4 + i.val
  omega

theorem copyLaw_iff {s : State} :
    CopyLaw s ↔ MemoryLaw s ∧ Aligned s ∧ FogHead s ∧ CopiesHold s := by
  unfold CopyLaw
  simp only [afterWrites_eq, alignmentLaw_iff]
  constructor
  · rintro ⟨hmem, ha, hfog, henable, hturn, hproduce, hconsume, hreveal⟩
    refine ⟨hmem, ha, hfog, ⟨fun x hx => ?_⟩⟩
    cases x with
    | enable => exact henable hx
    | turn => exact hturn hx
    | produce => exact hproduce hx
    | consume => exact hconsume hx
    | reveal i => exact hreveal i (revealOff_div i ▸ hx)
  · rintro ⟨hmem, ha, hfog, hcopies⟩
    exact ⟨hmem, ha, hfog, hcopies.word .enable, hcopies.word .turn, hcopies.word .produce, hcopies.word .consume,
      fun i hi => hcopies.word (.reveal i) (revealOff_div i ▸ hi)⟩

/-! ### The fog unit's next write -/

theorem concerns_of_head_dropWhile {concerns : StreamBody → Bool} {l : List StreamBody} {body : StreamBody}
    (h : (l.dropWhile fun x => !concerns x).head? = some body) : concerns body = true := by
  have hhead := List.head?_dropWhile_not (fun x => !concerns x) l
  rw [h] at hhead
  simpa using hhead

theorem FogHead.of_dropWhile {s t : State} (hmsz : t.msz256 = s.msz256) (hcpsel : t.cpselHigh = s.cpselHigh)
    {l : List StreamBody} (h : t.awaited .fog = l.dropWhile fun x => !s.concerns .fog x) : FogHead t := by
  intro e hnext
  rw [nextFor_eq, h] at hnext
  have hreveal : s.isRevealWord e.addr = true := concerns_of_head_dropWhile hnext
  unfold State.isRevealWord at hreveal ⊢
  rwa [pageAddr_of_straps hmsz hcpsel]

theorem FogHead.traffic {s u : State} (h : FogHead s) (ht : Traffic s u) : FogHead u := by
  cases ht with
  | still _ hstream hbeside =>
    intro e hnext
    rw [nextFor_eq, awaited_of_stream hstream, ← nextFor_eq] at hnext
    have hreveal := h e hnext
    unfold State.isRevealWord at hreveal ⊢
    rwa [pageAddr_of_straps hbeside.msz256 hbeside.cpselHigh]
  | stored e _ hstore hbeside =>
    refine .of_dropWhile hbeside.msz256 hbeside.cpselHigh (l := s.awaited .fog ++ [.write e]) ?_
    rw [awaited_of_stream hstore.stream, awaited_pushStream_passing _ _ (by decide)]
  | marked word _ _ hstream hbeside =>
    refine .of_dropWhile hbeside.msz256 hbeside.cpselHigh (l := s.awaited .fog ++ [.syncMark word]) ?_
    rw [awaited_of_stream hstream, awaited_pushStream_passing _ _ (by decide)]
  | taken b body _ _ _ hstream hmsz hcpsel =>
    by_cases hb : b = .fog
    · refine .of_dropWhile hmsz hcpsel (l := (s.awaited .fog).tail) ?_
      rw [awaited_of_stream hstream, hb, awaited_takeFor_self _ (by decide)]
    · refine .of_dropWhile hmsz hcpsel (l := s.awaited .fog) ?_
      rw [awaited_of_stream hstream, awaited_takeFor_other _ (Ne.symm hb), if_neg (by decide)]

/-! ### The copies -/

section
variable {s u : State} (x : HostWord)

theorem mergeAt_dropWhile_concerns (word : Word) (l : List StreamBody) :
    mergeAt (s.pageAddr x.off) word (l.dropWhile fun y => !s.concerns x.block y) = mergeAt (s.pageAddr x.off) word l :=
  mergeAt_dropWhile _ (fun _ he => x.concerns_of_addr he) word l

theorem mergeAt_pushStream (word : Word) (body : StreamBody) :
    mergeAt (s.pageAddr x.off) word ((s.pushStream body).awaited x.block) =
      mergeAt (s.pageAddr x.off) word (s.awaited x.block ++ [body]) := by
  rw [awaited_pushStream_passing _ _ x.block_ne_watch, mergeAt_dropWhile_concerns]

end

/-- A word at an aligned address after a store to an aligned address. -/
theorem Stores.readWord {s u : State} {e : SnoopWrite} {d : Word} (h : Stores s u e d) (hwf : s.mem.wf) {a : Nat}
    (ha : a % 4 = 0) :
    Machine.readWord u.mem a =
      if e.addr = a then mergeLanes e.lanes (Machine.readWord s.mem a) e.data else Machine.readWord s.mem a := by
  rw [h.mem]
  split
  · next heq =>
    rw [heq, readWord_writeLanes_self _ hwf, h.data]
  · next hne =>
    have halign := h.aligned
    exact readWord_writeLanes_apart _ _ _ _ _ (by omega)

/-- A word whose copy holds before a store to it, or to another word, holds after it. -/
theorem mergeAt_stored {s u : State} {e : SnoopWrite} {d : Word} (hstore : Stores s u e d) (hwf : s.mem.wf)
    (x : HostWord) {word : Word}
    (h : mergeAt (s.pageAddr x.off) word (s.awaited x.block) = readWord s.mem (s.pageAddr x.off)) :
    mergeAt (s.pageAddr x.off) word (u.awaited x.block) = readWord u.mem (s.pageAddr x.off) := by
  rw [awaited_of_stream hstore.stream, mergeAt_pushStream, mergeAt_append_write, h,
    hstore.readWord hwf (pageAddr_aligned s x.off_aligned)]

theorem mergeLanes_all (old new : Word) : mergeLanes Lanes.all old new = new := by
  refine BitVec.eq_of_getLsbD_eq fun i hi => ?_
  rw [mergeLanes_getLsbD _ _ _ _ hi, if_pos]
  have hlane : i / 8 < 4 := by omega
  interval_cases i / 8 <;> rfl

theorem CopiesHold.traffic {s u : State} (h : CopiesHold s) (hwf : s.mem.wf) (ht : Traffic s u) : CopiesHold u := by
  refine ⟨fun x hx => ?_⟩
  cases ht with
  | still hmem hstream hbeside hzero =>
    rw [pageAddr_of_straps hbeside.msz256 hbeside.cpselHigh, hbeside.copy, awaited_of_stream hstream, hmem]
    exact h.word x (hzero ▸ hx)
  | stored e d hstore hbeside hzero =>
    rw [pageAddr_of_straps hbeside.msz256 hbeside.cpselHigh, hbeside.copy]
    by_cases hold : x.off / 4 < s.mpa.zeroNext
    · exact mergeAt_stored hstore hwf x (h.word x hold)
    · obtain hzero | ⟨hzero, haddr, hall⟩ := hzero
      · exact absurd (hzero ▸ hx) hold
      · have hoff : zeroOff s.mpa.zeroNext = x.off := by
          have halign := x.off_aligned
          unfold zeroOff
          omega
        have hself : e.addr = s.pageAddr x.off := by rw [haddr, hoff]
        rw [awaited_of_stream hstore.stream, mergeAt_pushStream, mergeAt_append_write, if_pos hself,
          hstore.readWord hwf (pageAddr_aligned s x.off_aligned), if_pos hself, hall, mergeLanes_all, mergeLanes_all]
  | marked word _ hmem hstream hbeside hzero =>
    rw [pageAddr_of_straps hbeside.msz256 hbeside.cpselHigh, hbeside.copy, awaited_of_stream hstream, hmem,
      mergeAt_pushStream, mergeAt_append_mark]
    exact h.word x (hzero ▸ hx)
  | taken b body _ hnext hmem hstream hmsz hcpsel hcopy hzero =>
    have hold := h.word x (hzero ▸ hx)
    rw [pageAddr_of_straps hmsz hcpsel, hcopy, awaited_of_stream hstream, hmem]
    by_cases hb : x.block = b
    · rw [if_pos hb, hb, awaited_takeFor_self _ (hb ▸ x.block_ne_watch), ← hb, mergeAt_dropWhile_concerns]
      rw [nextFor_eq, ← hb] at hnext
      obtain ⟨rest, hrest⟩ := List.head?_eq_some_iff.mp hnext
      rw [hrest] at hold ⊢
      rw [List.tail_cons, ← mergeAt_cons]
      exact hold
    · rw [if_neg hb, awaited_takeFor_other _ hb, if_neg x.block_ne_watch, mergeAt_dropWhile_concerns]
      exact hold

theorem MemoryLaw.congr {s t : State} (h : MemoryLaw s) (hmem : t.mem = s.mem) : MemoryLaw t := by
  unfold MemoryLaw
  rw [hmem]
  exact h

theorem MemoryLaw.effect {s u : State} {c : Instr} (h : MemoryLaw s) (heff : Effect s c u) : MemoryLaw u := by
  unfold MemoryLaw
  obtain hsame | ⟨a, l, w, hmem, -⟩ := heff.storesOnly
  · rw [hsame]
    exact h
  · rw [hmem]
    exact wf_writeLanes _ h _ _ _

/-- The law of the copies as a structure. -/
structure Copies (s : State) : Prop where
  memory : MemoryLaw s
  aligned : Aligned s
  fog : FogHead s
  copies : CopiesHold s

/-- A change beside memory, the stream and the copies. -/
theorem Copies.still {s u : State} (h : Copies s) (ha : Aligned u) (hmem : u.mem = s.mem) (hstream : u.stream = s.stream)
    (hbeside : Beside s u) (hzero : u.mpa.zeroNext = s.mpa.zeroNext) : Copies u :=
  have ht : Traffic s u := .still hmem hstream hbeside hzero
  ⟨h.memory.congr hmem, ha, h.fog.traffic ht, h.copies.traffic h.memory ht⟩

theorem keptByEffects_copies : KeptByEffects Copies where
  pending rest h := h.still (keptByEffects_aligned.pending rest h.aligned) rfl rfl (.of_page rfl rfl rfl rfl) rfl
  powerOn msz256 cpselHigh h := by
    refine ⟨h.memory, aligned_poweredOn _ _ _, fun e hnext => ?_, ⟨fun x hx => ?_⟩⟩
    · cases hnext
    · exact absurd hx (Nat.not_lt_zero _)
  deassert h := h.still (keptByEffects_aligned.deassert h.aligned) rfl rfl (.of_page rfl rfl rfl rfl) rfl
  react h := h.still h.aligned.react (react_mem _) (react_stream _)
    (.of_page (react_msz256 _) (react_cpselHigh _) (react_page _) (react_reveal _)) (react_zeroNext _)
  effect h heff :=
    have ht := heff.traffic h.aligned fun _ _ => h.fog
    ⟨MemoryLaw.effect h.memory heff, h.aligned.effect heff, h.fog.traffic ht, h.copies.traffic h.memory ht⟩

/-- Settles O60. -/
theorem stepsKeepCopiesEqualToMemory : Obligations.StepsKeepCopiesEqualToMemory := by
  intro s t h hstep
  obtain ⟨hmem, ha, hfog, hcopies⟩ := copyLaw_iff.mp h
  have ht := keptByEffects_copies.step ⟨hmem, ha, hfog, hcopies⟩ hstep
  exact copyLaw_iff.mpr ⟨ht.memory, ht.aligned, ht.fog, ht.copies⟩

end Sys2Proof.Machine
end

section
/-! PROOFS. The shadows: the watch unit's view of the stream, and what an item that it takes makes of a watch. -/

namespace Sys2Proof.Machine

open Sys2Proof

/-! ### The mark of a synchronising read in the list that the watch unit awaits -/

def StreamBody.isMark : StreamBody → Bool
  | .write _ => false
  | .syncMark _ => true

/-- The word of the first mark, with what stands behind it. -/
def markIn : List StreamBody → Option (Word × List StreamBody)
  | [] => none
  | .write _ :: rest => markIn rest
  | .syncMark word :: rest => some (word, rest)

theorem markIn_awaited (l : List StreamItem) :
    markIn (awaited .watch l) = (standingMark l).map fun p => (p.1, awaited .watch p.2) := by
  induction l with
  | nil => rfl
  | cons it rest ih =>
    rw [awaited_cons]
    unfold standingMark
    change markIn (if it.watchDue then _ else _) = _
    cases hbody : it.body with
    | write e =>
      split
      · exact ih
      · exact ih
    | syncMark word =>
      cases hdue : it.watchDue with
      | true => rfl
      | false => simpa using ih

theorem countP_marks (l : List StreamItem) :
    l.countP (fun it => !it.isEntry && it.watchDue) = (awaited .watch l).countP StreamBody.isMark := by
  induction l with
  | nil => rfl
  | cons it rest ih =>
    rw [awaited_cons, List.countP_cons, ih]
    change _ = List.countP _ (if it.watchDue then _ else _)
    have hentry : it.isEntry = !it.body.isMark := by
      unfold StreamItem.isEntry StreamBody.isMark
      cases it.body <;> rfl
    rw [hentry]
    cases it.watchDue <;> simp [List.countP_cons]

theorem markIn_eq_none {l : List StreamBody} (h : l.countP StreamBody.isMark = 0) : markIn l = none := by
  induction l with
  | nil => rfl
  | cons body rest ih =>
    cases body with
    | write e => exact ih (by simpa [List.countP_cons, StreamBody.isMark] using h)
    | syncMark word => simp [List.countP_cons, StreamBody.isMark] at h

theorem markIn_append_mark {l : List StreamBody} (h : l.countP StreamBody.isMark = 0) (word : Word) :
    markIn (l ++ [.syncMark word]) = some (word, []) := by
  induction l with
  | nil => rfl
  | cons body rest ih =>
    cases body with
    | write e => exact ih (by simpa [List.countP_cons, StreamBody.isMark] using h)
    | syncMark mark => simp [List.countP_cons, StreamBody.isMark] at h

theorem markIn_append_write (l : List StreamBody) (e : SnoopWrite) :
    markIn (l ++ [.write e]) = (markIn l).map fun p => (p.1, p.2 ++ [.write e]) := by
  induction l with
  | nil => rfl
  | cons body rest ih =>
    cases body with
    | write d => exact ih
    | syncMark word => rfl

/-! ### Fields -/

theorem extractField_mergeLanes_congr {low width : Nat} (hfit : low + width ≤ 32) {v w : Word}
    (h : extractField v low width = extractField w low width) (l : Lanes) (data : Word) :
    extractField (mergeLanes l v data) low width = extractField (mergeLanes l w data) low width := by
  refine BitVec.eq_of_getLsbD_eq fun i hi => ?_
  have hbit := congrArg (BitVec.getLsbD · i) h
  simp only [extractField_getLsbD _ _ _ _ hi] at hbit ⊢
  by_cases hin : i < width
  · rw [mergeLanes_getLsbD _ _ _ _ (by omega), mergeLanes_getLsbD _ _ _ _ (by omega)]
    simp only [hin, decide_true, Bool.true_and] at hbit ⊢
    rw [hbit]
  · simp [hin]

theorem extractField_mergeAt_congr {low width : Nat} (hfit : low + width ≤ 32) {v w : Word} (a : Nat)
    (bodies : List StreamBody) (h : extractField v low width = extractField w low width) :
    extractField (mergeAt a v bodies) low width = extractField (mergeAt a w bodies) low width := by
  induction bodies generalizing v w with
  | nil => exact h
  | cons body rest ih =>
    rw [mergeAt_cons, mergeAt_cons]
    refine ih ?_
    cases body with
    | syncMark mark => exact h
    | write e =>
      simp only [mergeOne]
      split
      · exact extractField_mergeLanes_congr hfit h _ _
      · exact h

theorem extractField_shiftLeft {low width : Nat} (hfit : low + width ≤ 32) (w : Word) :
    extractField (extractField w low width <<< low) low width = extractField w low width := by
  refine BitVec.eq_of_getLsbD_eq fun i hi => ?_
  simp only [extractField_getLsbD _ _ _ _ hi]
  by_cases hin : i < width
  · have hhigh : low + i < 32 := by omega
    simp only [BitVec.getLsbD_shiftLeft, hhigh, decide_true, Bool.true_and, show ¬low + i < low by omega, decide_false,
      Bool.not_false, Nat.add_sub_cancel_left, extractField_getLsbD _ _ _ _ hi, hin]
  · simp [hin]

/-- R6: a write that does not touch the field leaves it as it was. -/
theorem extractField_mergeLanes_untouched {l : Lanes} {low width : Nat} (hpos : 1 ≤ width) (hfit : low + width ≤ 32)
    (h : touchesField l low width = false) (v data : Word) :
    extractField (mergeLanes l v data) low width = extractField v low width := by
  refine BitVec.eq_of_getLsbD_eq fun i hi => ?_
  simp only [extractField_getLsbD _ _ _ _ hi]
  by_cases hin : i < width
  · have hlane : l.has ((low + i) / 8) = false := by
      by_contra hon
      have htouch := (touchesField_iff l low width hpos hfit).mpr
        ⟨(low + i) / 8, by omega, by simpa using hon, by omega, by omega⟩
      rw [h] at htouch
      cases htouch
    rw [mergeLanes_getLsbD _ _ _ _ (by omega), hlane]
    rfl
  · simp [hin]

/-! ### One watch -/

/-- R6: the watch's shadow, with the writes that the watch unit awaits, is its field of the word that memory holds. -/
def Watch.holds (x : Watch) (m : Memory) (bodies : List StreamBody) : Prop :=
  extractField (mergeAt x.addr (x.shadow <<< x.lowBit) bodies) x.lowBit x.width
    = extractField (readWord m x.addr) x.lowBit x.width

theorem Watch.holds_cons_mark {x : Watch} {m : Memory} {word : Word} {rest : List StreamBody}
    (h : x.holds m (.syncMark word :: rest)) : x.holds m rest := h

theorem Watch.holds_missed {x : Watch} {m : Memory} {bodies : List StreamBody} (h : x.holds m bodies) (b : Bool) :
    { x with missed := b }.holds m bodies := h

/-- R6: the watch once the watch unit has taken a write. -/
def Watch.after (x : Watch) (e : SnoopWrite) : Watch := if x.sees e then x.observe e else x

/-- R6: the taken write has reached the shadow, or does not touch the field. -/
theorem Watch.holds_after {x : Watch} {m : Memory} {e : SnoopWrite} {rest : List StreamBody} (hshape : x.shaped)
    (harmed : x.state = .armed) (h : x.holds m (.write e :: rest)) : (x.after e).holds m rest := by
  obtain ⟨hpos, hfit, -⟩ := hshape
  unfold Watch.holds at h
  rw [mergeAt_cons_write] at h
  by_cases haddr : e.addr = x.addr
  · rw [if_pos haddr] at h
    cases htouch : touchesField e.lanes x.lowBit x.width with
    | true =>
      have hsees : x.sees e = true := by simp [Watch.sees, harmed, haddr, htouch]
      unfold Watch.after
      rw [if_pos hsees]
      exact (extractField_mergeAt_congr hfit _ _ (extractField_shiftLeft hfit _)).trans h
    | false =>
      have hsees : ¬x.sees e = true := by simp [Watch.sees, htouch]
      unfold Watch.after
      rw [if_neg hsees]
      exact (extractField_mergeAt_congr hfit _ _
        (extractField_mergeLanes_untouched hpos hfit htouch _ _)).symm.trans h
  · rw [if_neg haddr] at h
    have hsees : ¬x.sees e = true := by simp [Watch.sees, Ne.symm haddr]
    unfold Watch.after
    rw [if_neg hsees]
    exact h

/-- A store reaches memory and the list that the watch unit awaits alike. -/
theorem Watch.holds_stored {x : Watch} {s u : State} {e : SnoopWrite} {d : Word} (hshape : x.shaped)
    (hstore : Stores s u e d) (hwf : s.mem.wf) (h : x.holds s.mem (s.awaited .watch)) :
    x.holds u.mem (u.awaited .watch) := by
  obtain ⟨-, hfit, halign, -, -⟩ := hshape
  unfold Watch.holds at h ⊢
  rw [awaited_of_stream hstore.stream, awaited_pushStream_watch, mergeAt_append_write, hstore.readWord hwf halign]
  split
  · exact extractField_mergeLanes_congr hfit h _ _
  · exact h

/-- R16: the watch that takes its read's completion. -/
theorem Watch.holds_synced {x : Watch} {m : Memory} {word : Word} {rest : List StreamBody} (hfit : x.lowBit + x.width ≤ 32)
    (h : mergeAt x.addr word rest = readWord m x.addr) : (x.synced word).holds m rest := by
  have hfield : extractField (mergeAt x.addr (extractField word x.lowBit x.width <<< x.lowBit) rest) x.lowBit x.width
      = extractField (mergeAt x.addr word rest) x.lowBit x.width :=
    extractField_mergeAt_congr hfit _ _ (extractField_shiftLeft hfit word)
  rw [h] at hfield
  exact hfield

/-! ### The watch table when the watch unit takes a write -/

theorem fireWatch_watch (s : State) (w : Fin 64) (writer : Writer) (depth : Nat) (before after : Word) (v : Fin 64) :
    ∃ b, (s.fireWatch w writer depth before after).watch v = { s.watch v with missed := b } := by
  obtain hsame | hmissed := fireWatch_watches s w writer depth before after
  · exact ⟨(s.watch v).missed, watch_of_watches hsame v⟩
  · rw [watch_of_watches hmissed]
    by_cases hv : v = w
    · rw [hv, updWatch_self]
      exact ⟨true, rfl⟩
    · rw [updWatch_other _ _ _ _ hv]
      exact ⟨(s.watch v).missed, rfl⟩

theorem watchTakes_watch_self (s : State) (e : SnoopWrite) (w : Fin 64) :
    ∃ b, (s.watchTakes e w).watch w = { (s.watch w).after e with missed := b } := by
  unfold Watch.after
  cases hsees : (s.watch w).sees e with
  | false =>
    rw [watchTakes_unseen s e w hsees]
    exact ⟨(s.watch w).missed, rfl⟩
  | true =>
    cases hfires : (s.watch w).firesAt e with
    | false =>
      rw [watchTakes_silent s e w hsees hfires, updWatch_self]
      exact ⟨((s.watch w).observe e).missed, rfl⟩
    | true =>
      rw [watchTakes_fires s e w hsees hfires]
      obtain ⟨b, hb⟩ := fireWatch_watch (s.updWatch w fun x => x.observe e) w e.writer (firingDepth e)
        (s.watch w).shadow ((s.watch w).observe e).shadow w
      rw [hb, updWatch_self]
      exact ⟨b, rfl⟩

theorem foldTakes_watch_of_notMem (e : SnoopWrite) {l : List (Fin 64)} {v : Fin 64} (h : v ∉ l) (s : State) :
    (l.foldl (fun s w => s.watchTakes e w) s).watch v = s.watch v := by
  induction l generalizing s with
  | nil => rfl
  | cons w rest ih =>
    obtain ⟨hhead, hrest⟩ := not_or.mp fun hmem => h (List.mem_cons.mpr hmem)
    rw [List.foldl_cons, ih hrest, watchTakes_watch_other s e w v hhead]

theorem foldTakes_watch_of_mem (e : SnoopWrite) {l : List (Fin 64)} (hnodup : l.Nodup) {v : Fin 64} (h : v ∈ l)
    (s : State) : ∃ b, (l.foldl (fun s w => s.watchTakes e w) s).watch v = { (s.watch v).after e with missed := b } := by
  induction l generalizing s with
  | nil => cases h
  | cons w rest ih =>
    obtain ⟨hfirst, hrest⟩ := List.nodup_cons.mp hnodup
    rw [List.foldl_cons]
    by_cases hv : v = w
    · rw [hv, foldTakes_watch_of_notMem e hfirst]
      exact watchTakes_watch_self s e w
    · obtain ⟨b, hb⟩ := ih hrest (List.mem_of_ne_of_mem hv h) (s.watchTakes e w)
      rw [hb, watchTakes_watch_other s e w v hv]
      exact ⟨b, rfl⟩

/-- R5, R6: every watch takes the write by itself. -/
theorem takeWrite_watch (s : State) (e : SnoopWrite) (v : Fin 64) :
    ∃ b, (s.takeWrite e).watch v = { (s.watch v).after e with missed := b } :=
  foldTakes_watch_of_mem e (List.nodup_finRange 64) (List.mem_finRange v) s

theorem Watch.after_of_unarmed {x : Watch} {e : SnoopWrite} (h : x.state ≠ .armed) : x.after e = x := by
  unfold Watch.after
  exact if_neg fun hsees => h (Watch.armed_of_sees hsees)

theorem Watch.state_after (x : Watch) (e : SnoopWrite) : (x.after e).state = x.state := by
  unfold Watch.after
  split <;> rfl

end Sys2Proof.Machine
end

section
/-! PROOFS. Every step keeps the shadow of every ARMED watch, with the writes still to be taken, equal to memory. -/

namespace Sys2Proof.Machine

open Sys2Proof

/-- How many completions of the outstanding read stand in the stream (R13, R16). -/
def marksOf : Option SyncRead → Nat
  | some r => if r.completed then 1 else 0
  | none => 0

theorem marksOf_le_one (r : Option SyncRead) : marksOf r ≤ 1 := by
  unfold marksOf
  split
  · split <;> decide
  · decide

/-- The shadows and the outstanding read (R6, R13, R15, R16). -/
structure Tracked (s : State) : Prop where
  shadow : ∀ w, (s.watch w).state = .armed → (s.watch w).holds s.mem (s.awaited .watch)
  count : (s.awaited .watch).countP StreamBody.isMark = marksOf s.syncRead
  port : s.mpa.port = some (.ir .syncRead) → ∃ r, s.syncRead = some r ∧ r.completed = false
  watch : ∀ r, s.syncRead = some r → r.stale = false →
    (s.watch r.watch).state = .syncing ∧ (s.watch r.watch).addr = r.addr
  mark : ∀ r, s.syncRead = some r → r.stale = false → ∀ word rest, markIn (s.awaited .watch) = some (word, rest) →
    mergeAt r.addr word rest = readWord s.mem r.addr

theorem markClause_iff {a : Nat} {target : Word} {l : List StreamItem} :
    (∀ word rest, standingMark l = some (word, rest) → afterWrites .watch a word rest = target)
      ↔ ∀ word rest, markIn (awaited .watch l) = some (word, rest) → mergeAt a word rest = target := by
  simp only [markIn_awaited, afterWrites_eq, Option.map_eq_some_iff, Prod.exists, Prod.mk.injEq]
  constructor
  · rintro h word rest ⟨mark, items, hmark, rfl, rfl⟩
    exact h mark items hmark
  · exact fun h word items hmark => h word _ ⟨word, items, hmark, rfl, rfl⟩

theorem shadowLaw_iff {s : State} : ShadowLaw s ↔ MemoryLaw s ∧ WatchLaw s ∧ Aligned s ∧ Tracked s := by
  unfold ShadowLaw SyncLaw
  simp only [markClause_iff]
  simp only [alignmentLaw_iff, countP_marks, afterWrites_eq]
  constructor
  · rintro ⟨hmem, hlawful, ha, ⟨hcount, hport, hwatch⟩, hshadow, hmark⟩
    exact ⟨hmem, hlawful, ha, hshadow, hcount, hport, hwatch, hmark⟩
  · rintro ⟨hmem, hlawful, ha, hshadow, hcount, hport, hwatch, hmark⟩
    exact ⟨hmem, hlawful, ha, ⟨hcount, hport, hwatch⟩, hshadow, hmark⟩

/-! ### Changes that leave the watch unit's list alone -/

/-- The watch table changes, and no watch leaves SYNCING or changes its address there. -/
theorem Tracked.retable {s u : State} (h : Tracked s) (hmem : u.mem = s.mem) (hlist : u.awaited .watch = s.awaited .watch)
    (hread : u.syncRead = s.syncRead) (hport : u.mpa.port = some (.ir .syncRead) → s.mpa.port = some (.ir .syncRead))
    (harmed : ∀ w, (u.watch w).state = .armed → (u.watch w).holds s.mem (s.awaited .watch))
    (hsyncing : ∀ w, (s.watch w).state = .syncing →
      (u.watch w).state = .syncing ∧ (u.watch w).addr = (s.watch w).addr) :
    Tracked u where
  shadow w hw := by
    rw [hmem, hlist]
    exact harmed w hw
  count := by rw [hlist, hread, h.count]
  port hp := by
    rw [hread]
    exact h.port (hport hp)
  watch r hr hfresh := by
    obtain ⟨hstate, haddr⟩ := h.watch r (hread ▸ hr) hfresh
    obtain ⟨hkept, hsame⟩ := hsyncing r.watch hstate
    exact ⟨hkept, hsame.trans haddr⟩
  mark r hr hfresh := by
    rw [hmem, hlist]
    exact h.mark r (hread ▸ hr) hfresh

theorem Tracked.still {s u : State} (h : Tracked s) (hmem : u.mem = s.mem) (hlist : u.awaited .watch = s.awaited .watch)
    (hwatches : u.watches = s.watches) (hread : u.syncRead = s.syncRead)
    (hport : u.mpa.port = some (.ir .syncRead) → s.mpa.port = some (.ir .syncRead)) : Tracked u := by
  refine h.retable hmem hlist hread hport (fun w => ?_) (fun w hw => ?_)
  · rw [watch_of_watches hwatches]
    exact h.shadow w
  · rw [watch_of_watches hwatches]
    exact ⟨hw, rfl⟩

/-- R13: a read is issued for a SYNCING watch while none is outstanding, so no completion stands. -/
theorem Tracked.issueSync {s : State} (h : Tracked s) : Tracked s.issueSync := by
  obtain hsame | ⟨w, hnone, -, hsyncing, hissued⟩ := issueSync_cases s
  · rwa [hsame]
  · have hcount : (s.awaited .watch).countP StreamBody.isMark = 0 := by
      rw [h.count, hnone]
      rfl
    rw [hissued]
    refine ⟨h.shadow, hcount, fun _ => ⟨_, rfl, rfl⟩, fun r hr _ => ?_, fun r hr _ word rest hmark => ?_⟩
    · cases hr
      exact ⟨hsyncing, rfl⟩
    · cases (markIn_eq_none hcount).symm.trans hmark

/-- The outstanding read is given up or goes away: nothing is asked of its word any more. -/
theorem Tracked.giveUp {s u : State} (h : Tracked s) (hmem : u.mem = s.mem) (hlist : u.awaited .watch = s.awaited .watch)
    (hwatches : u.watches = s.watches) (hcount : marksOf u.syncRead = marksOf s.syncRead)
    (hport : u.mpa.port = some (.ir .syncRead) → ∃ r, u.syncRead = some r ∧ r.completed = false)
    (hstale : ∀ r, u.syncRead = some r → r.stale = true) : Tracked u where
  shadow w := by
    rw [hmem, hlist, watch_of_watches hwatches]
    exact h.shadow w
  count := by rw [hlist, hcount, h.count]
  port := hport
  watch r hr hfresh := by
    rw [hstale r hr] at hfresh
    cases hfresh
  mark r hr hfresh := by
    rw [hstale r hr] at hfresh
    cases hfresh

/-! ### The stores -/

theorem Tracked.stored {s u : State} {e : SnoopWrite} {d : Word} (h : Tracked s) (hwf : s.mem.wf)
    (hlawful : LawfulWatches s) (hstore : Stores s u e d) (hwatches : u.watches = s.watches)
    (hread : u.syncRead = s.syncRead) (hport : u.mpa.port = some (.ir .syncRead) → s.mpa.port = some (.ir .syncRead)) :
    Tracked u := by
  have hlist : u.awaited .watch = s.awaited .watch ++ [.write e] := by
    rw [awaited_of_stream hstore.stream, awaited_pushStream_watch]
  refine ⟨fun w hw => ?_, ?_, fun hp => ?_, fun r hr hfresh => ?_, fun r hr hfresh word rest hmark => ?_⟩
  · rw [watch_of_watches hwatches] at hw ⊢
    exact Watch.holds_stored (Watch.shaped_of_lawful (hlawful.watch w) (by rw [hw]; decide)) hstore hwf (h.shadow w hw)
  · rw [hlist, List.countP_append, h.count, hread]
    rfl
  · rw [hread]
    exact h.port (hport hp)
  · rw [watch_of_watches hwatches]
    exact h.watch r (hread ▸ hr) hfresh
  · have hr' : s.syncRead = some r := hread ▸ hr
    obtain ⟨hstate, haddr⟩ := h.watch r hr' hfresh
    have hshape := Watch.shaped_of_lawful (hlawful.watch r.watch) (by rw [hstate]; decide)
    obtain ⟨-, -, halign, -, -⟩ := hshape
    rw [haddr] at halign
    rw [hlist, markIn_append_write, Option.map_eq_some_iff] at hmark
    obtain ⟨⟨mark, before⟩, hold, heq⟩ := hmark
    cases heq
    rw [mergeAt_append_write, h.mark r hr' hfresh mark before hold, hstore.readWord hwf halign]

/-! ### The warm reset in the watch unit -/

theorem Watch.warmReset_not_armed (x : Watch) : x.warmReset.state ≠ .armed := by
  unfold Watch.warmReset
  split
  · next hfree => exact fun harmed => absurd (hfree.symm.trans harmed) (by decide)
  · exact fun harmed => by cases harmed
  · exact fun harmed => by cases harmed

theorem Watch.warmReset_of_syncing {x : Watch} (h : x.state = .syncing) :
    x.warmReset = { x with state := .syncing, missed := false } := by
  unfold Watch.warmReset
  split
  · next hfree => exact absurd (h.symm.trans hfree) (by decide)
  · rfl
  · rfl

theorem Tracked.takeWatchReset {s : State} (h : Tracked s) : Tracked s.takeWatchReset := by
  refine Tracked.issueSync ?_
  have hw : ∀ w, State.watch { s with watchReset := none, watches := s.watches.map Watch.warmReset } w
      = (s.watch w).warmReset := fun w => by simp [State.watch]
  refine h.retable rfl rfl rfl id (fun w harmed => ?_) (fun w hsyncing => ?_)
  · rw [hw] at harmed
    exact absurd harmed (Watch.warmReset_not_armed _)
  · rw [hw, Watch.warmReset_of_syncing hsyncing]
    exact ⟨rfl, rfl⟩

theorem Tracked.advanceWatchReset {s : State} (h : Tracked s) : Tracked s.advanceWatchReset := by
  unfold State.advanceWatchReset
  split
  · exact h
  · split
    · exact h.takeWatchReset
    · exact h.still rfl rfl rfl rfl id

theorem Tracked.placeWatchReset {s : State} (h : Tracked s) (n : Nat) : Tracked (s.placeWatchReset n) := by
  unfold State.placeWatchReset
  split
  · exact h
  · split
    · exact h.takeWatchReset
    · exact h.still rfl rfl rfl rfl id

theorem resetSync_stale {s : State} {r : SyncRead} (h : s.resetSync = some r) : r.stale = true := by
  unfold State.resetSync at h
  split at h
  · cases h
  · split at h <;> cases h
    rfl

theorem marksOf_resetSync (s : State) : marksOf s.resetSync = marksOf s.syncRead := by
  unfold State.resetSync
  cases hr : s.syncRead with
  | none => rfl
  | some r =>
    cases hdone : r.completed with
    | true => simp [marksOf, hdone]
    | false =>
      simp only
      split <;> simp [marksOf, hdone]

theorem resetSync_of_granted {s : State} {r : SyncRead} (hport : s.mpa.port = some (.ir .syncRead))
    (hr : s.syncRead = some r) : s.resetSync = some { r with stale := true } := by simp [State.resetSync, hr, hport]

theorem Tracked.warmReset {s : State} (h : Tracked s) : Tracked s.warmReset := by
  unfold State.warmReset
  refine Tracked.placeWatchReset ?_ _
  refine h.giveUp ?_ ?_ ?_ (marksOf_resetSync s) (fun hport => ?_) fun r hr => resetSync_stale hr
  · change s.resetRegions.mem = s.mem
    rw [resetRegions_eq]
  · refine awaited_of_stream ?_ .watch
    change s.resetRegions.stream = s.stream
    rw [resetRegions_eq]
  · change s.resetRegions.watches = s.watches
    rw [resetRegions_eq]
  · obtain ⟨hgranted, -⟩ := resetGrant_eq_ir hport
    obtain ⟨r, hr, hopen⟩ := h.port hgranted
    exact ⟨_, resetSync_of_granted hgranted hr, hopen⟩

/-! ### What the watch unit takes -/

theorem awaited_of_next {s : State} {b : Snooper} {body : StreamBody} (h : s.nextFor b = some body) :
    s.awaited b = body :: (s.awaited b).tail := by
  rw [nextFor_eq] at h
  exact (List.cons_head?_tail h).symm

theorem Tracked.takeWrite {s : State} {e : SnoopWrite} (h : Tracked s) (hlawful : LawfulWatches s)
    (hnext : s.nextFor .watch = some (.write e)) : Tracked ((s.takeFor .watch).takeWrite e) := by
  have hhead := awaited_of_next hnext
  have hlist : ((s.takeFor .watch).takeWrite e).awaited .watch = (s.awaited .watch).tail := by
    rw [← awaited_takeFor_watch]
    exact awaited_of_stream (by rw [takeWrite_eq]) .watch
  have hmem : ((s.takeFor .watch).takeWrite e).mem = s.mem := by rw [takeWrite_eq, takeFor_mem]
  have hread : ((s.takeFor .watch).takeWrite e).syncRead = s.syncRead := by rw [takeWrite_eq, takeFor_syncRead]
  have hport : ((s.takeFor .watch).takeWrite e).mpa = s.mpa := by rw [takeWrite_eq, takeFor_mpa]
  have hwatch : ∀ w, ∃ b, ((s.takeFor .watch).takeWrite e).watch w = { (s.watch w).after e with missed := b } :=
    takeWrite_watch (s.takeFor .watch) e
  refine ⟨fun w hw => ?_, ?_, fun hp => ?_, fun r hr hfresh => ?_, fun r hr hfresh word rest hmark => ?_⟩
  · obtain ⟨b, hb⟩ := hwatch w
    rw [hb] at hw ⊢
    rw [hmem, hlist]
    have harmed : (s.watch w).state = .armed := (Watch.state_after _ e).symm.trans hw
    have hold := h.shadow w harmed
    rw [hhead] at hold
    have hshape := Watch.shaped_of_lawful (hlawful.watch w) (by rw [harmed]; decide)
    exact Watch.holds_missed (Watch.holds_after hshape harmed hold) b
  · have hcount := h.count
    rw [hhead] at hcount
    rw [hlist, hread, ← hcount]
    simp [StreamBody.isMark]
  · rw [hread]
    exact h.port (hport ▸ hp)
  · obtain ⟨hstate, haddr⟩ := h.watch r (hread ▸ hr) hfresh
    obtain ⟨b, hb⟩ := hwatch r.watch
    rw [hb, Watch.after_of_unarmed (by rw [hstate]; decide)]
    exact ⟨hstate, haddr⟩
  · rw [hmem]
    refine h.mark r (hread ▸ hr) hfresh word rest ?_
    rw [hhead]
    rwa [hlist] at hmark

theorem syncWatch_watch (s : State) (w : Fin 64) (word : Word) (v : Fin 64) :
    ∃ b, (s.syncWatch w word).watch v =
      { (if v = w then (s.watch v).synced word else s.watch v) with missed := b } := by
  have hupd : (s.updWatch w fun x => x.synced word).watch v = if v = w then (s.watch v).synced word else s.watch v := by
    split
    · next hv => rw [hv, updWatch_self]
    · next hv => rw [updWatch_other _ _ _ _ hv]
  simp only [State.syncWatch]
  split
  · obtain ⟨b, hb⟩ := fireWatch_watch (s.updWatch w fun x => x.synced word) w .part 0
      ((s.updWatch w fun x => x.synced word).watch w).shadow ((s.updWatch w fun x => x.synced word).watch w).shadow v
    exact ⟨b, by rw [hb, hupd]⟩
  · exact ⟨_, hupd⟩

theorem awaited_taken_noRead (s : State) :
    State.awaited { s.takeFor .watch with syncRead := none } .watch = (s.awaited .watch).tail :=
  (awaited_of_stream rfl .watch).trans (awaited_takeFor_watch s)

/-- The outstanding read is gone with its completion. -/
theorem Tracked.discardSync {s : State} {word : Word} {r : SyncRead} (h : Tracked s) (hr : s.syncRead = some r)
    (hport : s.mpa.port ≠ some (.ir .syncRead)) (hnext : s.nextFor .watch = some (.syncMark word)) :
    Tracked { s.takeFor .watch with syncRead := none } := by
  have hhead := awaited_of_next hnext
  have hlist := awaited_taken_noRead s
  refine ⟨fun w hw => ?_, ?_, fun hp => absurd hp hport, fun q hq => ?_, fun q hq => ?_⟩
  · have hold := h.shadow w hw
    rw [hhead] at hold
    rw [hlist]
    exact Watch.holds_cons_mark hold
  · have hcount := h.count
    rw [hhead, hr, List.countP_cons] at hcount
    have hone : (if StreamBody.isMark (.syncMark word) = true then 1 else 0) = 1 := rfl
    have hmost := marksOf_le_one (some r)
    rw [hone] at hcount
    rw [hlist]
    change _ = 0
    omega
  · cases hq
  · cases hq

/-- R16: the watch whose read it was holds the word that was read, with the writes behind it. -/
theorem Tracked.syncWatch {s : State} {w : Fin 64} {word : Word} (h : Tracked s) (hnone : s.syncRead = none)
    (hfit : (s.watch w).lowBit + (s.watch w).width ≤ 32)
    (hword : mergeAt (s.watch w).addr word (s.awaited .watch) = readWord s.mem (s.watch w).addr) :
    Tracked (s.syncWatch w word) := by
  have hkeeps := watchUnitKeeps_syncWatch s w word
  unfold WatchUnitKeeps at hkeeps
  have hread : (s.syncWatch w word).syncRead = s.syncRead := by rw [hkeeps]
  have hlist : (s.syncWatch w word).awaited .watch = s.awaited .watch := awaited_of_stream (by rw [hkeeps]) _
  refine ⟨fun v hv => ?_, ?_, fun hp => ?_, fun r hr => ?_, fun r hr => ?_⟩
  · have hmem : (s.syncWatch w word).mem = s.mem := by rw [hkeeps]
    rw [hmem, hlist]
    obtain ⟨b, hb⟩ := syncWatch_watch s w word v
    rw [hb] at hv ⊢
    by_cases hself : v = w
    · rw [if_pos hself, hself]
      exact Watch.holds_missed (Watch.holds_synced hfit hword) b
    · rw [if_neg hself] at hv ⊢
      exact Watch.holds_missed (h.shadow v hv) b
  · rw [hlist, hread, h.count]
  · rw [hread]
    exact h.port (by rw [hkeeps] at hp; exact hp)
  · rw [hread, hnone] at hr
    cases hr
  · rw [hread, hnone] at hr
    cases hr

theorem Tracked.takeSync {s : State} {r : SyncRead} {word : Word} (h : Tracked s) (hlawful : LawfulWatches s)
    (hr : s.syncRead = some r) (hport : s.mpa.port ≠ some (.ir .syncRead))
    (hnext : s.nextFor .watch = some (.syncMark word)) : Tracked ((s.takeFor .watch).takeSync r word) := by
  have hgone := h.discardSync hr hport hnext
  obtain ht | ⟨hfresh, hsyncing, ht⟩ := takeSync_cases (s.takeFor .watch) r word
  · rw [ht]
    exact hgone.issueSync
  · have hsyncing : (s.watch r.watch).state = .syncing := hsyncing
    obtain ⟨-, haddr⟩ := h.watch r hr hfresh
    have hshape := Watch.shaped_of_lawful (hlawful.watch r.watch) (by rw [hsyncing]; decide)
    obtain ⟨-, hfit, -⟩ := hshape
    have hmark : markIn (s.awaited .watch) = some (word, (s.awaited .watch).tail) := by
      rw [awaited_of_next hnext]
      rfl
    have hword : mergeAt (s.watch r.watch).addr word (State.awaited { s.takeFor .watch with syncRead := none } .watch)
        = readWord s.mem (s.watch r.watch).addr := by
      refine (congrArg (mergeAt _ word) (awaited_taken_noRead s)).trans ?_
      rw [haddr]
      exact h.mark r hr hfresh word _ hmark
    have hsynced := hgone.syncWatch (w := r.watch) (word := word) rfl hfit hword
    obtain ht | ⟨-, ht⟩ := ht
    · rw [ht]
      exact hsynced.issueSync
    · rw [ht]
      refine Tracked.issueSync (hsynced.still ?_ (awaited_of_stream ?_ _) ?_ ?_ fun hp => ?_)
      · rw [report_mem]
      · rw [report_stream]
      · rw [report_watches]
      · rw [report_syncRead]
      · rwa [report_mpa] at hp

/-- R14: the completion enters the stream behind everything that stands in it. -/
theorem Tracked.completeSync {s : State} {r : SyncRead} (h : Tracked s) (hr : s.syncRead = some r)
    (hport : s.mpa.port = some (.ir .syncRead)) : Tracked (s.completeSync r).endIRGrant := by
  obtain ⟨q, hq, hopen⟩ := h.port hport
  cases hr.symm.trans hq
  have hzero : marksOf (some r) = 0 := by simp [marksOf, hopen]
  have hcount : (s.awaited .watch).countP StreamBody.isMark = 0 := by rw [h.count, hr, hzero]
  have hlist : (s.completeSync r).endIRGrant.awaited .watch = s.awaited .watch ++ [.syncMark (readWord s.mem r.addr)] :=
    awaited_pushStream_watch { s with syncRead := some { r with completed := true } } _
  refine ⟨fun w hw => ?_, ?_, fun hp => ?_, fun q hq hfresh => ?_, fun q hq hfresh word rest hmark => ?_⟩
  · have hold := h.shadow w hw
    unfold Watch.holds at hold ⊢
    rw [hlist, mergeAt_append_mark]
    exact hold
  · rw [hlist, List.countP_append, hcount]
    rfl
  · cases hp
  · cases hq
    exact h.watch r hr hfresh
  · cases hq
    rw [hlist, markIn_append_mark hcount] at hmark
    cases hmark
    rfl

theorem Tracked.watchUnit {s u : State} (h : Tracked s) (hlawful : LawfulWatches s) (ht : WatchUnitTakes s u) :
    Tracked u := by
  cases ht with
  | write e hnext => exact (h.takeWrite hlawful hnext).advanceWatchReset
  | sync r word hr hport hnext => exact (h.takeSync hlawful hr hport hnext).advanceWatchReset
  | complete r hr hport => exact h.completeSync hr hport

/-! ### The watch commands -/

theorem Tracked.updWatch {s : State} (h : Tracked s) {w : Fin 64} {f : Watch → Watch}
    (harmed : (f (s.watch w)).state = .armed → (f (s.watch w)).holds s.mem (s.awaited .watch))
    (hsyncing : (s.watch w).state = .syncing →
      (f (s.watch w)).state = .syncing ∧ (f (s.watch w)).addr = (s.watch w).addr) : Tracked (s.updWatch w f) := by
  refine h.retable rfl rfl rfl id (fun v => ?_) (fun v hv => ?_)
  · by_cases hself : v = w
    · rw [hself, updWatch_self]
      exact harmed
    · rw [updWatch_other _ _ _ _ hself]
      exact h.shadow v
  · by_cases hself : v = w
    · rw [hself] at hv
      rw [hself, updWatch_self]
      exact hsyncing hv
    · rw [updWatch_other _ _ _ _ hself]
      exact ⟨hv, rfl⟩

theorem Tracked.takeCommand {s : State} (h : Tracked s) : Tracked s.takeCommand :=
  h.still (by simp) (awaited_of_stream (by simp) _) (by simp) (by simp) (by simp)

/-- R22: the read of a freed watch is given up. -/
theorem Tracked.freeWatch {s : State} (h : Tracked s) (w : Fin 64) : Tracked (s.freeWatch w) := by
  rw [freeWatch_eq]
  refine ⟨fun v hv => ?_, ?_, fun hp => ?_, fun r hr hfresh => ?_, fun r hr hfresh => ?_⟩
  · change ((s.updWatch w fun _ => Watch.cleared).watch v).state = .armed at hv
    change ((s.updWatch w fun _ => Watch.cleared).watch v).holds s.mem (s.awaited .watch)
    by_cases hself : v = w
    · rw [hself, updWatch_self] at hv
      cases hv
    · rw [updWatch_other _ _ _ _ hself] at hv ⊢
      exact h.shadow v hv
  · refine h.count.trans ?_
    change _ = marksOf (s.syncRead.map _)
    cases s.syncRead with
    | none => rfl
    | some r =>
      simp only [Option.map_some]
      split <;> rfl
  · obtain ⟨r, hr, hopen⟩ := h.port hp
    refine ⟨_, (congrArg (Option.map _) hr).trans (Option.map_some ..), ?_⟩
    split <;> exact hopen
  all_goals
    obtain ⟨q, hq, heq⟩ := Option.map_eq_some_iff.mp hr
    split at heq
    · rw [← heq] at hfresh
      cases hfresh
  · next hother =>
    subst heq
    obtain ⟨hstate, haddr⟩ := h.watch q hq hfresh
    have hsame : (s.updWatch w fun _ => Watch.cleared).watch q.watch = s.watch q.watch :=
      updWatch_other _ _ _ _ hother
    exact ⟨(congrArg Watch.state hsame).trans hstate, (congrArg Watch.addr hsame).trans haddr⟩
  · subst heq
    exact h.mark q hq hfresh

/-! ### The effects -/

/-- What a step other than the watch unit's does to memory and to the list that the watch unit awaits. -/
inductive Passes (s u : State) : Prop
  | still (hmem : u.mem = s.mem) (hlist : u.awaited .watch = s.awaited .watch)
  | stored (e : SnoopWrite) (d : Word) (hstore : Stores s u e d)

theorem Traffic.passes {s u : State} (ht : Traffic s u) : WatchUnitTakes s u ∨ Passes s u := by
  cases ht with
  | still hmem hstream => exact .inr (.still hmem (awaited_of_stream hstream _))
  | stored e d hstore => exact .inr (.stored e d hstore)
  | marked word htakes => exact .inl htakes
  | taken b body htakes hnext hmem hstream =>
    by_cases hb : b = .watch
    · exact .inl (htakes hb)
    · refine .inr (.still hmem ?_)
      rw [awaited_of_stream hstream, awaited_takeFor_other s (Ne.symm hb), if_pos rfl]

theorem Tracked.pass {s u : State} (h : Tracked s) (hwf : s.mem.wf) (hlawful : LawfulWatches s) (hpass : Passes s u)
    (hwatches : u.watches = s.watches) (hread : u.syncRead = s.syncRead)
    (hport : u.mpa.port = some (.ir .syncRead) → s.mpa.port = some (.ir .syncRead)) : Tracked u := by
  cases hpass with
  | still hmem hlist => exact h.still hmem hlist hwatches hread hport
  | stored e d hstore => exact h.stored hwf hlawful hstore hwatches hread hport

theorem EngineKeeps.tracked {v u : State} (hkeep : EngineKeeps v u) (h : Tracked v) : Tracked u :=
  h.still hkeep.mem_eq (awaited_of_stream hkeep.stream_eq _) hkeep.watches_eq hkeep.syncRead_eq
    fun hp => hkeep.mpa_eq ▸ hp

theorem Tracked.effect {s u : State} {c : Instr} (h : Tracked s) (hwf : s.mem.wf) (hlawful : LawfulWatches s)
    (ha : Aligned s) (heff : Effect s c u) : Tracked u := by
  by_cases hreveal : ∃ e, u = (s.takeFor .fog).takeReveal e
  · obtain ⟨e, rfl⟩ := hreveal
    exact h.still rfl ((awaited_takeFor_other s (by decide)).trans (if_pos rfl)) rfl rfl id
  obtain htakes | hpass := (heff.traffic ha fun e he => absurd ⟨e, he⟩ hreveal).passes
  · exact h.watchUnit hlawful htakes
  have granted : ∀ {u}, Passes s u → u.watches = s.watches → u.syncRead = s.syncRead → u.mpa.port = none →
      Tracked u :=
    fun hpass hwatches hread hport => h.pass hwf hlawful hpass hwatches hread fun hp => by
      rw [hport] at hp
      cases hp
  cases heff with
  | takeWrite e hnext => exact h.watchUnit hlawful (.write e hnext)
  | takeSync r word hr hport hnext => exact h.watchUnit hlawful (.sync r word hr hport hnext)
  | completeSync r hr hport => exact h.watchUnit hlawful (.complete r hr hport)
  | warmReset => exact h.warmReset
  | arm _ words w e _ _ hfree hsync =>
    refine (Tracked.takeCommand (h.updWatch (fun harmed => ?_) (fun hsyncing => ?_))).issueSync
    · exact absurd (hsync.symm.trans harmed) (by decide)
    · exact absurd (hfree.symm.trans hsyncing) (by decide)
  | resync words w _ harmed =>
    refine (Tracked.takeCommand (h.updWatch (fun hstill => ?_) (fun hsyncing => ?_))).issueSync
    · cases hstill
    · exact absurd (harmed.symm.trans hsyncing) (by decide)
  | readWatch words w =>
    have hcleared : Tracked (s.updWatch w fun x => { x with missed := false }) :=
      h.updWatch (h.shadow w) fun hsyncing => ⟨hsyncing, rfl⟩
    exact hcleared.still (by simp) (awaited_of_stream (by simp) _) (by simp) (by simp) (by simp)
  | disarm words w =>
    exact (h.freeWatch w).still (by simp) (awaited_of_stream (by simp) _) (by simp) (by simp) (by simp)
  | request m a => exact h.pass hwf hlawful hpass (by simp) (by simp) (by simp)
  | installRing | holdRing =>
    exact h.pass hwf hlawful hpass (by simp [State.installRing]) (by simp [State.installRing]) (by simp [State.installRing])
  | read | drop => exact granted hpass (by simp) (by simp) rfl
  | refuse => exact granted hpass (by simp [State.refuseAccess]) (by simp [State.refuseAccess]) rfl
  | store => exact granted hpass (by simp [State.masterStore]) (by simp [State.masterStore]) rfl
  | clear => exact granted hpass (by simp [State.clearCauses]) (by simp [State.clearCauses]) rfl
  | takeTurn e =>
    exact h.pass hwf hlawful hpass (by rw [takeTurn_eq, takeFor_watches]) (by rw [takeTurn_eq, takeFor_syncRead])
      (by rw [takeTurn_eq, takeFor_mpa]; exact id)
  | takeProduceIndex e =>
    exact h.pass hwf hlawful hpass (by rw [takeProduceIndex_eq, takeFor_watches])
      (by rw [takeProduceIndex_eq, takeFor_syncRead]) (by rw [takeProduceIndex_eq, takeFor_mpa]; exact id)
  | takeConsumeIndex e =>
    exact h.pass hwf hlawful hpass (by rw [takeConsumeIndex_eq, takeFor_watches])
      (by rw [takeConsumeIndex_eq, takeFor_syncRead]) (by rw [takeConsumeIndex_eq, takeFor_mpa]; exact id)
  | beat => exact (keeps_clockEvent s .beat).tracked h
  | timerAnswer => exact (after_report (keeps_settleTimers s) _ _).tracked h
  | timerSet => exact (after_report (after_updTimer (keeps_settleTimers s) _ _) _ _).tracked h
  | startQuest words q => exact (keeps_startQuest s q).tracked h
  | resumeQuest words q => exact (after_report (keeps_resumeQuest s q) _ _).tracked h
  | resumeLate words q => exact ((keeps_resumeQuest s q).trans (keeps_beginWork _ _ _ _ _ _)).tracked h
  | abandonQuest words q => exact ((keeps_takeCommand s).trans (keeps_beginWork _ _ _ _ _ _)).tracked h
  | engineGoesOn => exact (keeps_runEngine s).tracked h
  | takeWatchEntry v writer depth rest | timeoutExpiry _ _ rest =>
    have htaken : Tracked { s with queue := rest } := h.still rfl rfl rfl rfl id
    exact (keeps_beginWork _ _ _ _ _ _).tracked htaken
  | denyEffect j =>
    have hended : Tracked (s.endIRGrant.recordFault .effect .write j.record.addr) :=
      h.still rfl rfl rfl rfl fun hp => by cases hp
    exact (keeps_denyEffect _ j).tracked hended
  | effectSettled old new => exact (keeps_effectSettled s _).tracked h
  | publishElement =>
    exact granted hpass (by rw [publishElement_eq]; rfl) (by rw [publishElement_eq]; rfl) (by rw [publishElement_eq]; rfl)
  | ringConsumeWord | ringAnswered =>
    exact granted hpass (by rw [writerFree_eq]; rfl) (by rw [writerFree_eq]; rfl) (by rw [writerFree_eq]; rfl)
  | statusWord =>
    exact granted hpass (by rw [writeStatus_eq]; rfl) (by rw [writeStatus_eq]; rfl) (by rw [writeStatus_eq]; rfl)
  | consumeIndex =>
    exact granted hpass (by rw [writeConsume_eq]; rfl) (by rw [writeConsume_eq]; rfl) (by rw [writeConsume_eq]; rfl)
  | fetch => exact granted hpass (by rw [fetched_eq]; rfl) (by rw [fetched_eq]; rfl) (by rw [fetched_eq]; rfl)
  | zeroWrite | grantEffect | endGrant | orphanWrite | orphanEffect | faultWord | causeWord | vectorWord | resetCauseWord
  | resetVectorWord | elementWord | lastElementWord | ringProduceWord | resultWord =>
    exact granted hpass rfl rfl rfl
  | _ => exact h.pass hwf hlawful hpass rfl rfl id

/-- R149: the arbiter grants the synchronising read only while the watch unit asks for it. -/
theorem Tracked.react {s : State} (h : Tracked s) : Tracked s.react := by
  have hlist : s.react.awaited .watch = s.awaited .watch := awaited_of_stream (react_stream s) _
  have hread : s.react.syncRead = s.syncRead := react_syncRead s
  have hwatch : ∀ w, s.react.watch w = s.watch w := watch_of_watches (react_watches s)
  refine ⟨fun w hw => ?_, ?_, fun hp => ?_, fun r hr hfresh => ?_, fun r hr hfresh => ?_⟩
  · rw [hwatch] at hw ⊢
    rw [react_mem, hlist]
    exact h.shadow w hw
  · rw [hlist, hread]
    exact h.count
  · rw [hread]
    have hbegin : s.beginPublication.syncRead = s.syncRead := beginPublication_syncRead s
    unfold State.react at hp
    obtain hsame | ⟨-, hgrant⟩ := arbitrate_cases s.beginPublication
    · rw [hsame, beginPublication_mpa] at hp
      exact h.port hp
    · rw [hgrant] at hp
      obtain ⟨a, ha, heq⟩ | ⟨heq, -⟩ | ⟨heq, -⟩ := chooseGrant_cases hp
      · cases heq
        have hstands : s.beginPublication.requestStands .syncRead := irRequest_stands ha
        obtain ⟨r, hr, hopen⟩ := hstands
        exact ⟨r, hbegin ▸ hr, hopen⟩
      · cases heq
      · cases heq
  · rw [hwatch]
    exact h.watch r (hread ▸ hr) hfresh
  · rw [hlist, react_mem]
    exact h.mark r (hread ▸ hr) hfresh

/-- The law of the shadows as a structure. -/
structure Shadowed (s : State) : Prop where
  memory : MemoryLaw s
  lawful : LawfulWatches s
  aligned : Aligned s
  tracked : Tracked s

theorem tracked_poweredOn (s : State) (msz256 cpselHigh : Bool) : Tracked (s.poweredOn msz256 cpselHigh) := by
  refine ⟨fun w hw => ?_, rfl, nofun, nofun, nofun⟩
  have hcleared : State.watch State.reset w = Watch.cleared := by simp [State.watch, State.reset]
  have harmed : (State.watch State.reset w).state = .armed := hw
  rw [hcleared] at harmed
  cases harmed

theorem keptByEffects_shadowed : KeptByEffects Shadowed where
  pending rest h :=
    ⟨h.memory, h.lawful, keptByEffects_aligned.pending rest h.aligned, h.tracked.still rfl rfl rfl rfl id⟩
  powerOn msz256 cpselHigh h :=
    ⟨h.memory, keptByEffects_lawfulWatches.powerOn msz256 cpselHigh h.lawful, aligned_poweredOn _ _ _,
      tracked_poweredOn _ _ _⟩
  deassert h :=
    ⟨h.memory, h.lawful, keptByEffects_aligned.deassert h.aligned, h.tracked.still rfl rfl rfl rfl id⟩
  react h := ⟨h.memory.congr (react_mem _), h.lawful.congr (react_watches _), h.aligned.react, h.tracked.react⟩
  effect h heff :=
    ⟨MemoryLaw.effect h.memory heff, h.lawful.effect heff, h.aligned.effect heff,
      h.tracked.effect h.memory h.lawful h.aligned heff⟩

/-- Settles O59. -/
theorem stepsKeepShadowsEqualToMemory : Obligations.StepsKeepShadowsEqualToMemory := by
  intro s t h hstep
  obtain ⟨hmem, hlawful, ha, htracked⟩ := shadowLaw_iff.mp h
  have ht := keptByEffects_shadowed.step ⟨hmem, .intro hlawful, ha, htracked⟩ hstep
  exact shadowLaw_iff.mpr ⟨ht.memory, ht.lawful.watch, ht.aligned, ht.tracked⟩

end Sys2Proof.Machine
end

section
/-! PROOFS. The quest table by itself: the entries, the timers' binders and the steps' timers as functions, with what each
change of an entry keeps of the laws R30, R31, R79 and R80. -/

namespace Sys2Proof.Machine

open Sys2Proof

/-! ### References on both sides -/

/-- Two tables refer to each other: an entry of one names an entry of the other exactly when that one names it. -/
structure Mutual {m n : Nat} (f : Fin m → Option (Fin n)) (g : Fin n → Option (Fin m)) : Prop where
  iff : ∀ a b, f a = some b ↔ g b = some a

section
variable {m n : Nat} {f : Fin m → Option (Fin n)} {g : Fin n → Option (Fin m)}

theorem Mutual.join (h : Mutual f g) {a : Fin m} {b : Fin n} (hf : f a = none) (hg : g b = none) :
    Mutual (Function.update f a (some b)) (Function.update g b (some a)) := by
  refine ⟨fun x y => ?_⟩
  have hold := h.iff x y
  by_cases hx : x = a
  · subst hx
    by_cases hy : y = b
    · simp [hy]
    · rw [hf] at hold
      simp [Function.update_of_ne hy, Ne.symm hy, ← hold]
  · by_cases hy : y = b
    · subst hy
      rw [hg] at hold
      simp [Function.update_of_ne hx, Ne.symm hx, hold]
    · rw [Function.update_of_ne hx, Function.update_of_ne hy, hold]

theorem Mutual.part (h : Mutual f g) {a : Fin m} {b : Fin n} (hf : f a = some b) :
    Mutual (Function.update f a none) (Function.update g b none) := by
  refine ⟨fun x y => ?_⟩
  have hold := h.iff x y
  have hg := (h.iff a b).mp hf
  by_cases hx : x = a
  · subst hx
    by_cases hy : y = b
    · simp [hy]
    · have hne : g y ≠ some x := fun hgy => hy (Option.some.inj ((hold.mpr hgy).symm.trans hf))
      simp [Function.update_of_ne hy, hne]
  · by_cases hy : y = b
    · subst hy
      have hne : f x ≠ some y := fun hfx => hx (Option.some.inj ((hold.mp hfx).symm.trans hg))
      simp [Function.update_of_ne hx, hne]
    · rw [Function.update_of_ne hx, Function.update_of_ne hy, hold]

end

/-! ### One entry -/

/-- What the laws ask of an entry by itself (R30, R31, R79, R80), given the timers that the steps name. -/
structure Quest.Fits (x : Quest) (timerOf : Nat → Option (Fin 8)) : Prop where
  range : x.state ≠ .vacant → 1 ≤ x.stepCount ∧ x.stepCount ≤ 16 ∧ x.firstStep + x.stepCount ≤ 128
  current : x.state.running = true → x.current < x.stepCount
  bound : ∀ t, x.bound = some t → (x.state = .active ∨ x.state = .held) ∧ timerOf (x.firstStep + x.current) = some t
  child : ∀ c, x.child = some c → x.state = .suspended
  parent : ∀ p, x.parent = some p → x.state.running = true
  depth : x.depth ≤ 3
  root : x.parent = none → x.state.running = true → x.depth = 0

section
variable {x : Quest} {timerOf : Nat → Option (Fin 8)}

theorem running_of_active (h : x.state = .active) : x.state.running = true := by rw [h]; rfl

theorem defined_of_running (h : x.state.running = true) : x.state ≠ .vacant := by
  intro hvacant
  rw [hvacant] at h
  cases h

theorem Quest.Fits.childless (h : x.Fits timerOf) (hstate : x.state ≠ .suspended) : x.child = none :=
  Option.eq_none_iff_forall_ne_some.mpr fun c hc => hstate (h.child c hc)

theorem Quest.Fits.parentless (h : x.Fits timerOf) (hrest : x.state.running = false) : x.parent = none :=
  Option.eq_none_iff_forall_ne_some.mpr fun p hp => absurd ((h.parent p hp).symm.trans hrest) (by decide)

theorem Quest.Fits.unbound (h : x.Fits timerOf) (hactive : x.state ≠ .active) (hheld : x.state ≠ .held) :
    x.bound = none :=
  Option.eq_none_iff_forall_ne_some.mpr fun t ht =>
    (h.bound t ht).1.elim hactive hheld

theorem not_suspended_of_rest (hrest : x.state.running = false) : x.state ≠ .suspended := by
  intro heq
  rw [heq] at hrest
  cases hrest

theorem Quest.Fits.unbound_of_rest (h : x.Fits timerOf) (hrest : x.state.running = false) : x.bound = none := by
  refine h.unbound (fun heq => ?_) (fun heq => ?_) <;> rw [heq] at hrest <;> cases hrest

/-- An entry that does not run, and names nothing. -/
theorem Quest.Fits.of_rest (hrest : x.state.running = false)
    (hrange : x.state ≠ .vacant → 1 ≤ x.stepCount ∧ x.stepCount ≤ 16 ∧ x.firstStep + x.stepCount ≤ 128)
    (hbound : x.bound = none) (hparent : x.parent = none) (hchild : x.child = none) (hdepth : x.depth ≤ 3) :
    x.Fits timerOf where
  range := hrange
  current hrun := absurd (hrun.symm.trans hrest) (by decide)
  bound t ht := by rw [hbound] at ht; cases ht
  child c hc := by rw [hchild] at hc; cases hc
  parent p hp := by rw [hparent] at hp; cases hp
  depth := hdepth
  root _ hrun := absurd (hrun.symm.trans hrest) (by decide)

end

/-! ### The table -/

/-- R30, R31, R79, R80. -/
structure QuestTable (quest : Fin 32 → Quest) (binder : Fin 8 → Option (Fin 32)) (timerOf : Nat → Option (Fin 8)) :
    Prop where
  entry : ∀ q, (quest q).Fits timerOf
  binding : Mutual binder fun q => (quest q).bound
  links : Mutual (fun p => (quest p).child) fun c => (quest c).parent
  deeper : ∀ q p, (quest q).parent = some p → (quest q).depth = (quest p).depth + 1

/-- A field of the entries after the change of one. -/
theorem field_update {α : Type} (f : Quest → α) (quest : Fin 32 → Quest) (q : Fin 32) (x : Quest) :
    (fun r => f (Function.update quest q x r)) = Function.update (fun r => f (quest r)) q (f x) :=
  funext fun r => Function.apply_update (fun _ => f) quest q x r

theorem field_update_same {α : Type} {f : Quest → α} {quest : Fin 32 → Quest} {q : Fin 32} {x : Quest}
    (h : f x = f (quest q)) : (fun r => f (Function.update quest q x r)) = fun r => f (quest r) := by
  rw [field_update, h]
  exact Function.update_eq_self q _

namespace QuestTable

variable {quest : Fin 32 → Quest} {binder : Fin 8 → Option (Fin 32)} {timerOf : Nat → Option (Fin 8)}

theorem entry_update (h : QuestTable quest binder timerOf) {q : Fin 32} {x : Quest} (hx : x.Fits timerOf) (r : Fin 32) :
    (Function.update quest q x r).Fits timerOf := by
  by_cases hr : r = q
  · rw [hr, Function.update_self]
    exact hx
  · rw [Function.update_of_ne hr]
    exact h.entry r

/-- An entry that has a parent is not its own parent. -/
theorem parent_ne (h : QuestTable quest binder timerOf) {q p : Fin 32} (hp : (quest q).parent = some p) : q ≠ p := by
  intro heq
  have hdepth := h.deeper q p hp
  rw [heq] at hdepth
  omega

/-- An entry changes, and what it names stays. -/
theorem replace (h : QuestTable quest binder timerOf) {q : Fin 32} {x : Quest} (hx : x.Fits timerOf)
    (hparent : x.parent = (quest q).parent) (hchild : x.child = (quest q).child) (hbound : x.bound = (quest q).bound)
    (hdepth : x.depth = (quest q).depth ∨ x.parent = none ∧ x.child = none) :
    QuestTable (Function.update quest q x) binder timerOf where
  entry := h.entry_update hx
  binding := by
    rw [field_update_same hbound]
    exact h.binding
  links := by
    rw [field_update_same (f := Quest.child) hchild, field_update_same (f := Quest.parent) hparent]
    exact h.links
  deeper r p hp := by
    have hold : (quest r).parent = some p := (congrFun (field_update_same (f := Quest.parent) hparent) r).symm.trans hp
    have hdeeper := h.deeper r p hold
    obtain hsame | ⟨hnoparent, hnochild⟩ := hdepth
    · have hdepths := field_update_same (f := Quest.depth) hsame
      rw [congrFun hdepths r, congrFun hdepths p]
      exact hdeeper
    · have hr : r ≠ q := fun heq => by
        rw [heq, ← hparent, hnoparent] at hold
        cases hold
      have hpq : p ≠ q := fun heq => by
        have hchildr := (h.links.iff p r).mpr hold
        rw [heq, ← hchild, hnochild] at hchildr
        cases hchildr
      rw [Function.update_of_ne hr, Function.update_of_ne hpq]
      exact hdeeper

/-- The binding of an entry changes, together with the timers' binders. -/
theorem rebind (h : QuestTable quest binder timerOf) {q : Fin 32} {b : Option (Fin 8)}
    {binder' : Fin 8 → Option (Fin 32)} (hx : { quest q with bound := b }.Fits timerOf)
    (hbinding : Mutual binder' (Function.update (fun r => (quest r).bound) q b)) :
    QuestTable (Function.update quest q { quest q with bound := b }) binder' timerOf := by
  have hparents := field_update_same (f := Quest.parent) (quest := quest) (q := q) (x := { quest q with bound := b }) rfl
  have hchildren := field_update_same (f := Quest.child) (quest := quest) (q := q) (x := { quest q with bound := b }) rfl
  have hdepths := field_update_same (f := Quest.depth) (quest := quest) (q := q) (x := { quest q with bound := b }) rfl
  refine ⟨h.entry_update hx, ?_, ?_, fun r p hp => ?_⟩
  · rw [field_update]
    exact hbinding
  · rw [hchildren, hparents]
    exact h.links
  · rw [congrFun hdepths r, congrFun hdepths p]
    exact h.deeper r p ((congrFun hparents r).symm.trans hp)

/-- R31, R124: a binding ends on both sides. -/
theorem unbind (h : QuestTable quest binder timerOf) {q : Fin 32} {t : Fin 8} (ht : (quest q).bound = some t) :
    QuestTable (Function.update quest q { quest q with bound := none }) (Function.update binder t none) timerOf :=
  h.rebind { h.entry q with bound := nofun } (h.binding.part ((h.binding.iff t q).mpr ht))

/-- R31, R123: a binding of a timer that has no binder. -/
theorem bind (h : QuestTable quest binder timerOf) {q : Fin 32} {t : Fin 8} (hactive : (quest q).state = .active)
    (hunbound : (quest q).bound = none) (hfree : binder t = none)
    (hstep : timerOf ((quest q).firstStep + (quest q).current) = some t) :
    QuestTable (Function.update quest q { quest q with bound := some t }) (Function.update binder t (some q)) timerOf :=
  h.rebind { h.entry q with bound := fun u hu => by cases hu; exact ⟨.inl hactive, hstep⟩ }
    (h.binding.join hfree hunbound)

/-- R85, R87: a quest leaves its parent. -/
theorem unlink (h : QuestTable quest binder timerOf) {q p : Fin 32} {x y : Quest} (hp : (quest q).parent = some p)
    (hx : x.Fits timerOf) (hy : y.Fits timerOf) (hxparent : x.parent = none) (hychild : y.child = none)
    (hxchild : x.child = (quest q).child) (hyparent : y.parent = (quest p).parent) (hxbound : x.bound = (quest q).bound)
    (hybound : y.bound = (quest p).bound) (hxdepth : x.depth = (quest q).depth) (hydepth : y.depth = (quest p).depth) :
    QuestTable (Function.update (Function.update quest q x) p y) binder timerOf := by
  have hne : p ≠ q := (h.parent_ne hp).symm
  have hchildOf : (quest p).child = some q := (h.links.iff p q).mpr hp
  have hparents : (fun r => (Function.update (Function.update quest q x) p y r).parent)
      = Function.update (fun r => (quest r).parent) q none := by
    rw [field_update_same (f := Quest.parent) (by rw [Function.update_of_ne hne]; exact hyparent),
      field_update Quest.parent, hxparent]
  have hchildren : (fun r => (Function.update (Function.update quest q x) p y r).child)
      = Function.update (fun r => (quest r).child) p none := by
    rw [field_update Quest.child, field_update_same (f := Quest.child) hxchild, hychild]
  have hdepths : (fun r => (Function.update (Function.update quest q x) p y r).depth) = fun r => (quest r).depth := by
    rw [field_update_same (f := Quest.depth) (by rw [Function.update_of_ne hne]; exact hydepth),
      field_update_same (f := Quest.depth) hxdepth]
  refine ⟨fun r => ?_, ?_, ?_, fun r a ha => ?_⟩
  · by_cases hr : r = p
    · rw [hr, Function.update_self]
      exact hy
    · rw [Function.update_of_ne hr]
      exact h.entry_update hx r
  · rw [field_update_same (f := Quest.bound) (by rw [Function.update_of_ne hne]; exact hybound),
      field_update_same (f := Quest.bound) hxbound]
    exact h.binding
  · rw [hchildren, hparents]
    exact h.links.part hchildOf
  · have hold : (quest r).parent = some a := by
      have hnew := (congrFun hparents r).symm.trans ha
      by_cases hr : r = q
      · rw [hr, Function.update_self] at hnew
        cases hnew
      · rwa [Function.update_of_ne hr] at hnew
    exact (congrFun hdepths r).trans ((h.deeper r a hold).trans (congrArg (· + 1) (congrFun hdepths a).symm))

/-- R82: a quest calls another. -/
theorem link (h : QuestTable quest binder timerOf) {p c : Fin 32} {x y : Quest} (hne : c ≠ p)
    (hnochild : (quest p).child = none) (hnoparent : (quest c).parent = none) (hleaf : (quest c).child = none)
    (hx : x.Fits timerOf) (hy : y.Fits timerOf) (hxchild : x.child = some c) (hyparent : y.parent = some p)
    (hxparent : x.parent = (quest p).parent) (hychild : y.child = none) (hxbound : x.bound = (quest p).bound)
    (hybound : y.bound = (quest c).bound) (hxdepth : x.depth = (quest p).depth) (hydepth : y.depth = (quest p).depth + 1) :
    QuestTable (Function.update (Function.update quest p x) c y) binder timerOf := by
  have hparents : (fun r => (Function.update (Function.update quest p x) c y r).parent)
      = Function.update (fun r => (quest r).parent) c (some p) := by
    rw [field_update Quest.parent, field_update_same (f := Quest.parent) hxparent, hyparent]
  have hchildren : (fun r => (Function.update (Function.update quest p x) c y r).child)
      = Function.update (fun r => (quest r).child) p (some c) := by
    rw [field_update_same (f := Quest.child) (by rw [Function.update_of_ne hne, hleaf]; exact hychild),
      field_update Quest.child, hxchild]
  have hdepths : (fun r => (Function.update (Function.update quest p x) c y r).depth)
      = Function.update (fun r => (quest r).depth) c ((quest p).depth + 1) := by
    rw [field_update Quest.depth, field_update_same (f := Quest.depth) hxdepth, hydepth]
  refine ⟨fun r => ?_, ?_, ?_, fun r a ha => ?_⟩
  · by_cases hr : r = c
    · rw [hr, Function.update_self]
      exact hy
    · rw [Function.update_of_ne hr]
      exact h.entry_update hx r
  · rw [field_update_same (f := Quest.bound) (by rw [Function.update_of_ne hne]; exact hybound),
      field_update_same (f := Quest.bound) hxbound]
    exact h.binding
  · rw [hchildren, hparents]
    exact h.links.join hnochild hnoparent
  · have hnew := (congrFun hparents r).symm.trans ha
    refine (congrFun hdepths r).trans (Eq.trans ?_ (congrArg (· + 1) (congrFun hdepths a).symm))
    by_cases hr : r = c
    · rw [hr, Function.update_self] at hnew
      cases hnew
      rw [hr, Function.update_self, Function.update_of_ne (Ne.symm hne)]
    · rw [Function.update_of_ne hr] at hnew
      have hac : a ≠ c := fun heq => by
        have hchild := (h.links.iff a r).mpr hnew
        rw [heq] at hchild
        cases hleaf.symm.trans hchild
      rw [Function.update_of_ne hr, Function.update_of_ne hac]
      exact h.deeper r a hnew

end QuestTable

end Sys2Proof.Machine
end

section
/-! PROOFS. The laws of the quest table in a state: what the engine's and the timer unit's operations keep of them. -/

namespace Sys2Proof.Machine

open Sys2Proof

/-! ### The table of a state -/

def State.binderOf (s : State) (t : Fin 8) : Option (Fin 32) := (s.timer t).binder

def State.stepTimer (s : State) (n : Nat) : Option (Fin 8) := (s.stepRec n).timer

/-- R30, R31, R79, R80 in a state. -/
def QuestsLawful (s : State) : Prop := QuestTable s.quest s.binderOf s.stepTimer

/-- The laws of the quest table, with what the work item in progress acts on. -/
structure EngineLawful (s : State) : Prop where
  quests : QuestsLawful s
  task : ∀ w : WorkItem, s.work = some w → w.task.lawful s

theorem questsLawful_iff {s : State} :
    QuestsLawful s ↔ StepsLaw s ∧ BindingLaw s ∧ LinkLaw s ∧ DepthLaw s := by
  constructor
  · intro h
    refine ⟨fun q => ⟨(h.entry q).range, (h.entry q).current⟩, fun t q => ⟨h.binding.iff t q, (h.entry q).bound t⟩,
      fun p c => ⟨h.links.iff p c, fun hc => ⟨(h.entry p).child c hc, ?_⟩⟩,
      fun q => ⟨(h.entry q).depth, h.deeper q, (h.entry q).root⟩⟩
    exact (h.entry c).parent p ((h.links.iff p c).mp hc)
  · rintro ⟨hsteps, hbinding, hlinks, hdepth⟩
    refine ⟨fun q => ?_, ⟨fun t q => (hbinding t q).1⟩, ⟨fun p c => (hlinks p c).1⟩, fun q => (hdepth q).2.1⟩
    obtain ⟨hrange, hcurrent⟩ := hsteps q
    obtain ⟨hmost, -, hroot⟩ := hdepth q
    refine ⟨hrange, hcurrent, fun t => (hbinding t q).2, fun c hc => ((hlinks q c).2 hc).1, fun p hp => ?_, hmost, hroot⟩
    exact ((hlinks p q).2 ((hlinks p q).1.mpr hp)).2

theorem engineLaw_iff {s : State} : EngineLaw s ↔ EngineLawful s := by
  unfold EngineLaw WorkLaw
  constructor
  · rintro ⟨hsteps, hbinding, hlinks, hdepth, hwork⟩
    exact ⟨questsLawful_iff.mpr ⟨hsteps, hbinding, hlinks, hdepth⟩, hwork⟩
  · rintro ⟨hquests, hwork⟩
    obtain ⟨hsteps, hbinding, hlinks, hdepth⟩ := questsLawful_iff.mp hquests
    exact ⟨hsteps, hbinding, hlinks, hdepth, hwork⟩

/-! ### What the table is made of -/

theorem quest_of_quests {s u : State} (h : u.quests = s.quests) : u.quest = s.quest := by
  funext q
  unfold State.quest
  rw [h]

theorem binderOf_of_timers {s u : State} (h : u.timers = s.timers) : u.binderOf = s.binderOf := by
  funext t
  unfold State.binderOf State.timer
  rw [h]

theorem stepTimer_of_steps {s u : State} (h : u.steps = s.steps) : u.stepTimer = s.stepTimer := by
  funext n
  unfold State.stepTimer State.stepRec
  rw [h]

theorem quest_updQuest (s : State) (q : Fin 32) (f : Quest → Quest) :
    (s.updQuest q f).quest = Function.update s.quest q (f (s.quest q)) := by
  funext r
  by_cases hr : r = q
  · rw [hr, updQuest_self, Function.update_self]
  · rw [updQuest_other _ _ _ _ hr, Function.update_of_ne hr]

theorem binderOf_updTimer (s : State) (t : Fin 8) (f : Timer → Timer) :
    (s.updTimer t f).binderOf = Function.update s.binderOf t (f (s.timer t)).binder := by
  funext u
  unfold State.binderOf
  by_cases hu : u = t
  · rw [hu, updTimer_self, Function.update_self]
  · rw [updTimer_other _ _ _ _ hu, Function.update_of_ne hu]

theorem QuestsLawful.congr {s u : State} (h : QuestsLawful s) (hquest : u.quest = s.quest)
    (hbinder : u.binderOf = s.binderOf) (hsteps : u.steps = s.steps) : QuestsLawful u := by
  unfold QuestsLawful
  rw [hquest, hbinder, stepTimer_of_steps hsteps]
  exact h

theorem lawful_of_quest {s u : State} (h : u.quest = s.quest) {k : Task} (hk : k.lawful s) : k.lawful u := by
  cases k <;> simp only [Task.lawful, h] at hk ⊢ <;> exact hk

theorem EngineLawful.congr {s u : State} (h : EngineLawful s) (hquest : u.quest = s.quest)
    (hbinder : u.binderOf = s.binderOf) (hsteps : u.steps = s.steps) (hwork : u.work = s.work) : EngineLawful u :=
  ⟨h.quests.congr hquest hbinder hsteps, fun w hw => lawful_of_quest hquest (h.task w (hwork ▸ hw))⟩

/-- The quests, the timers, the steps and the work item are all that the law speaks of. -/
theorem EngineLawful.ofSame {s u : State} (h : EngineLawful s) (hquests : u.quests = s.quests)
    (htimers : u.timers = s.timers) (hsteps : u.steps = s.steps) (hwork : u.work = s.work) : EngineLawful u :=
  h.congr (quest_of_quests hquests) (binderOf_of_timers htimers) hsteps hwork

theorem EngineLawful.ofIdle {s : State} (h : QuestsLawful s) (hwork : s.work = none) : EngineLawful s :=
  ⟨h, fun w hw => by rw [hwork] at hw; cases hw⟩

theorem EngineLawful.withTask {s : State} {w : WorkItem} {k : Task} (h : QuestsLawful s) (hk : k.lawful s) :
    EngineLawful (s.withTask w k) := by
  refine ⟨h.congr rfl rfl rfl, fun v hv => ?_⟩
  cases hv
  exact lawful_of_quest rfl hk

/-! ### Timers -/

theorem binder_afterExpiry (x : Timer) : x.afterExpiry.binder = x.binder := by
  unfold Timer.afterExpiry
  split
  · rfl
  · split <;> rfl

theorem binder_counted (c : Clock) (x : Timer) : (x.counted c).binder = x.binder := by
  unfold Timer.counted
  split <;> rfl

theorem binderOf_updTimer_same {s : State} {t : Fin 8} {f : Timer → Timer}
    (h : (f (s.timer t)).binder = (s.timer t).binder) :
    (s.updTimer t f).binderOf = s.binderOf := by
  rw [binderOf_updTimer, h]
  exact Function.update_eq_self t _

theorem binderOf_expire (s : State) (k : Fin 8) : (s.expire k).binderOf = s.binderOf := by
  unfold State.expire
  exact binderOf_updTimer_same (binder_afterExpiry _)

theorem binderOf_settleTimers (s : State) : s.settleTimers.binderOf = s.binderOf := by
  unfold State.settleTimers
  generalize List.finRange 8 = l
  induction l generalizing s with
  | nil => rfl
  | cons k rest ih =>
    rw [List.foldl_cons, ih]
    split
    · exact binderOf_expire s k
    · rfl

theorem binderOf_clockEvent (s : State) (c : Clock) : (s.clockEvent c).binderOf = s.binderOf := by
  rw [← binderOf_settleTimers s]
  simp only [State.clockEvent]
  generalize s.settleTimers = v
  funext t
  unfold State.binderOf State.timer
  simp only [Fin.getElem_fin, Vector.getElem_map, binder_counted]

theorem quest_settleTimers (s : State) : s.settleTimers.quest = s.quest := quest_of_quests (settleTimers_quests s)

theorem QuestsLawful.settleTimers {s : State} (h : QuestsLawful s) : QuestsLawful s.settleTimers :=
  h.congr (quest_settleTimers s) (binderOf_settleTimers s) (by rw [settleTimers_eq])

theorem EngineLawful.settleTimers {s : State} (h : EngineLawful s) : EngineLawful s.settleTimers :=
  h.congr (quest_settleTimers s) (binderOf_settleTimers s) (by rw [settleTimers_eq]) (by rw [settleTimers_eq])

theorem EngineLawful.clockEvent {s : State} (h : EngineLawful s) (c : Clock) : EngineLawful (s.clockEvent c) :=
  h.congr (quest_of_quests (by rw [clockEvent_eq])) (binderOf_clockEvent s c) (by rw [clockEvent_eq]) (by rw [clockEvent_eq])

/-! ### One quest -/

theorem QuestsLawful.updQuest {s : State} (h : QuestsLawful s) {q : Fin 32} {f : Quest → Quest}
    (hx : (f (s.quest q)).Fits s.stepTimer) (hparent : (f (s.quest q)).parent = (s.quest q).parent)
    (hchild : (f (s.quest q)).child = (s.quest q).child) (hbound : (f (s.quest q)).bound = (s.quest q).bound)
    (hdepth : (f (s.quest q)).depth = (s.quest q).depth
      ∨ (f (s.quest q)).parent = none ∧ (f (s.quest q)).child = none) : QuestsLawful (s.updQuest q f) := by
  unfold QuestsLawful
  rw [quest_updQuest]
  exact h.replace hx hparent hchild hbound hdepth

theorem QuestsLawful.handNotice {s : State} (h : QuestsLawful s) (n : Notice) : QuestsLawful (s.handNotice n) :=
  h.congr (quest_of_quests (by simp)) (binderOf_of_timers (by simp)) (by simp)

theorem quest_handNotice (s : State) (n : Notice) : (s.handNotice n).quest = s.quest := quest_of_quests (by simp)

/-! ### Binding and release (R31, R123, R124) -/

/-- Both sides of a binding change. -/
theorem questsLawful_of_sides {s : State} {t : Fin 8} {q : Fin 32} {f : Timer → Timer} {g : Quest → Quest}
    (h : QuestTable (Function.update s.quest q (g (s.quest q))) (Function.update s.binderOf t (f (s.timer t)).binder)
      s.stepTimer) : QuestsLawful ((s.updTimer t f).updQuest q g) := by
  have hquest : ((s.updTimer t f).updQuest q g).quest = Function.update s.quest q (g (s.quest q)) :=
    quest_updQuest (s.updTimer t f) q g
  have hbinder : ((s.updTimer t f).updQuest q g).binderOf = Function.update s.binderOf t (f (s.timer t)).binder :=
    binderOf_updTimer s t f
  unfold QuestsLawful
  rw [hquest, hbinder]
  exact h

theorem QuestsLawful.release {s : State} (h : QuestsLawful s) (q : Fin 32) : QuestsLawful (s.release q) := by
  unfold State.release
  split
  · exact h
  · next t ht =>
    have hsettled := h.settleTimers
    have hbound : (s.settleTimers.quest q).bound = some t := by rwa [settleTimers_quest]
    simp only
    generalize s.settleTimers = v at hsettled hbound
    exact questsLawful_of_sides (QuestTable.unbind hsettled hbound)

/-- R123: the timer's former binder loses it. -/
theorem QuestsLawful.dropBound {s : State} (h : QuestsLawful s) {q p : Fin 32} {t : Fin 8}
    (hp : (s.timer t).binder = some p) (hne : p ≠ q) :
    QuestTable (s.dropBound (some p) q).quest (Function.update s.binderOf t none) s.stepTimer
      ∧ (s.dropBound (some p) q).quest q = s.quest q := by
  unfold State.dropBound
  simp only [hne, if_false]
  rw [quest_updQuest]
  exact ⟨QuestTable.unbind h ((h.binding.iff t p).mp hp), Function.update_of_ne (Ne.symm hne) _ _⟩

theorem dropBound_timers (s : State) (b : Option (Fin 32)) (q : Fin 32) : (s.dropBound b q).timers = s.timers := by
  unfold State.dropBound
  split
  · rfl
  · split <;> rfl

theorem dropBound_steps (s : State) (b : Option (Fin 32)) (q : Fin 32) : (s.dropBound b q).steps = s.steps := by
  unfold State.dropBound
  split
  · rfl
  · split <;> rfl

/-- R31, R123: a timer's binding to an ACTIVE quest whose current step names it. -/
theorem QuestsLawful.bindTimer {s : State} (h : QuestsLawful s) {q : Fin 32} {t : Fin 8}
    (hactive : (s.quest q).state = .active) (hunbound : (s.quest q).bound = none)
    (hstep : (s.currentStep q).timer = some t) : QuestsLawful (s.bindTimer q t) := by
  have hsettled := h.settleTimers
  have hsteps : s.settleTimers.stepTimer = s.stepTimer := stepTimer_of_steps (by rw [settleTimers_eq])
  have hstepv : s.settleTimers.stepTimer ((s.quest q).firstStep + (s.quest q).current) = some t := by
    rw [hsteps]
    exact hstep
  rw [← settleTimers_quest s q] at hactive hunbound hstepv
  simp only [State.bindTimer]
  generalize s.settleTimers = v at hsettled hactive hunbound hstepv
  split
  · exact hsettled
  · cases hbinder : (v.timer t).binder with
    | none => exact questsLawful_of_sides (QuestTable.bind hsettled hactive hunbound hbinder hstepv)
    | some p =>
      have hne : p ≠ q := fun heq => by
        rw [heq] at hbinder
        cases hunbound.symm.trans ((hsettled.binding.iff t q).mp hbinder)
      obtain ⟨hdropped, hself⟩ := hsettled.dropBound hbinder hne
      rw [← hself] at hactive hunbound hstepv
      have hbound := QuestTable.bind hdropped hactive hunbound (Function.update_self ..) hstepv
      rw [Function.update_idem] at hbound
      refine questsLawful_of_sides ?_
      rw [binderOf_of_timers (dropBound_timers v (some p) q), stepTimer_of_steps (dropBound_steps v (some p) q)]
      exact hbound

theorem state_bindTimer (s : State) (q : Fin 32) (t : Fin 8) (r : Fin 32) :
    ((s.bindTimer q t).quest r).state = (s.quest r).state := by
  have hupd : ∀ (v : State) (p : Fin 32) (b : Option (Fin 8)),
      ((v.updQuest p fun c => { c with bound := b }).quest r).state = (v.quest r).state := fun v p b => by
    by_cases hr : r = p
    · rw [hr, updQuest_self]
    · rw [updQuest_other _ _ _ _ hr]
  rw [← settleTimers_quest s r]
  simp only [State.bindTimer]
  generalize s.settleTimers = v
  split
  · rfl
  · rw [hupd]
    change ((v.dropBound _ q).quest r).state = _
    unfold State.dropBound
    split
    · rfl
    · split
      · rfl
      · exact hupd v _ none

end Sys2Proof.Machine
end

section
/-! PROOFS. Every part of a work item keeps the laws of the quest table, and finds in its quest what it acts on. -/

namespace Sys2Proof.Machine

open Sys2Proof

theorem quest_updQuest_pair (s : State) {q p : Fin 32} (hne : p ≠ q) (f g : Quest → Quest) :
    ((s.updQuest q f).updQuest p g).quest
      = Function.update (Function.update s.quest q (f (s.quest q))) p (g (s.quest p)) := by
  rw [quest_updQuest, updQuest_other _ _ _ _ hne, quest_updQuest]

theorem questsLawful_of_quest {s u : State} (hbinder : s.binderOf = u.binderOf) (hsteps : s.steps = u.steps)
    {quest : Fin 32 → Quest} (hquest : s.quest = quest) (h : QuestTable quest u.binderOf u.stepTimer) :
    QuestsLawful s := by
  unfold QuestsLawful
  rw [hquest, hbinder, stepTimer_of_steps hsteps]
  exact h

theorem questsLawful_of_pair {s u : State} {q p : Fin 32} (hne : p ≠ q) {f g : Quest → Quest}
    (hbinder : s.binderOf = u.binderOf) (hsteps : s.steps = u.steps) {base : Fin 32 → Quest} {x : Quest}
    (hquest : s.quest = Function.update base q x)
    (h : QuestTable (Function.update (Function.update base q (f x)) p (g (base p))) u.binderOf u.stepTimer) :
    QuestsLawful ((s.updQuest q f).updQuest p g) := by
  have hp : s.quest p = base p := by rw [hquest, Function.update_of_ne hne]
  have hq : s.quest q = x := by rw [hquest, Function.update_self]
  unfold QuestsLawful
  rw [quest_updQuest_pair s hne, hp, hq, hquest, Function.update_idem]
  change QuestTable _ s.binderOf s.stepTimer
  rw [hbinder, stepTimer_of_steps hsteps]
  exact h

/-! ### Entering a step (R31, R32) -/

theorem EngineLawful.enterStep {s : State} (h : QuestsLawful s) {q : Fin 32} {i : Nat}
    (hactive : (s.quest q).state = .active) (hunbound : (s.quest q).bound = none) (hi : i < (s.quest q).stepCount)
    (w : WorkItem) : EngineLawful (s.enterStep w q i) := by
  have hentry := h.entry q
  have hcurrent : QuestsLawful (s.updQuest q fun c => { c with current := i }) := by
    refine h.updQuest { hentry with current := fun _ => hi, bound := fun t ht => ?_ } rfl rfl rfl (.inl rfl)
    cases hunbound.symm.trans ht
  have hself := updQuest_self s q fun c => { c with current := i }
  have hstate : ((s.updQuest q fun c => { c with current := i }).quest q).state = .active := by
    rw [hself]
    exact hactive
  have hfree : ((s.updQuest q fun c => { c with current := i }).quest q).bound = none := by
    rw [hself]
    exact hunbound
  simp only [State.enterStep]
  generalize s.updQuest q (fun c => { c with current := i }) = v at hcurrent hstate hfree
  split
  · refine .withTask hcurrent ?_
    split
    · exact hstate
    · trivial
  · next t ht =>
    refine .withTask (hcurrent.bindTimer hstate hfree ht) ?_
    split
    · exact (state_bindTimer v q t q).trans hstate
    · trivial

/-- R30, R47: the entry of a quest that starts. -/
theorem Quest.Fits.begun {x : Quest} {timerOf : Nat → Option (Fin 8)} (h : x.Fits timerOf) (hdef : x.state ≠ .vacant)
    (hrest : x.state.running = false) {d : Nat} (hd : d ≤ 3) {p : Option (Fin 32)} (hroot : p = none → d = 0) :
    { x with reason := none, late := false, depth := d, current := 0, state := .active, parent := p }.Fits timerOf where
  range _ := h.range hdef
  current _ := (h.range hdef).1
  bound t ht := by cases (h.unbound_of_rest hrest).symm.trans ht
  child c hc := by cases (h.childless (not_suspended_of_rest hrest)).symm.trans hc
  parent _ _ := rfl
  depth := hd
  root hp _ := hroot hp

/-- R47: a quest that rests, not VACANT, starts at depth 0. -/
theorem EngineLawful.beginQuest {s : State} (h : QuestsLawful s) {q : Fin 32} (hdef : (s.quest q).state ≠ .vacant)
    (hrest : (s.quest q).state.running = false) (w : WorkItem) : EngineLawful (s.beginQuest w q 0) := by
  have hentry := h.entry q
  have hbegun := hentry.begun hdef hrest (Nat.zero_le 3) (p := (s.quest q).parent) fun _ => rfl
  have hlawful : QuestsLawful (s.updQuest q fun c =>
      { c with reason := none, late := false, depth := 0, current := 0, state := .active }) :=
    h.updQuest hbegun rfl rfl rfl
      (.inr ⟨hentry.parentless hrest, hentry.childless (not_suspended_of_rest hrest)⟩)
  refine EngineLawful.enterStep hlawful ?_ ?_ ?_ w <;> rw [updQuest_self]
  · exact hentry.unbound_of_rest hrest
  · exact (hentry.range hdef).1

/-! ### The call (R81 to R83) -/

theorem callRefused_eq_none {s : State} {p c : Fin 32} (h : s.callRefused p c = none) :
    (s.quest p).depth < 3 ∧ (s.quest c).state ≠ .vacant ∧ (s.quest c).state.running = false := by
  unfold State.callRefused at h
  split at h
  · cases h
  · next hdepth =>
    split at h
    · cases h
    · next hdef =>
      split at h
      · cases h
      · next hrest => exact ⟨by omega, hdef, by simpa using hrest⟩

theorem EngineLawful.makeCall {s : State} (h : QuestsLawful s) {p : Fin 32} (hactive : (s.quest p).state = .active)
    (hunbound : (s.quest p).bound = none) (w : WorkItem) (c : Fin 32) : EngineLawful (s.makeCall w p c) := by
  have hcaller := h.entry p
  have hcallee := h.entry c
  have hnochild : (s.quest p).child = none := hcaller.childless (by rw [hactive]; decide)
  unfold State.makeCall
  split
  · exact .withTask h ⟨running_of_active hactive, hnochild⟩
  · next hok =>
    obtain ⟨hdepth, hdef, hrest⟩ := callRefused_eq_none hok
    have hne : c ≠ p := fun heq => by
      rw [heq, hactive] at hrest
      cases hrest
    have hleaf := hcallee.childless (not_suspended_of_rest hrest)
    have hx : { s.quest p with child := some c, state := .suspended }.Fits s.stepTimer :=
      { range := fun _ => hcaller.range (by rw [hactive]; decide)
        current := fun _ => hcaller.current (running_of_active hactive)
        bound := fun t ht => by cases hunbound.symm.trans ht
        child := fun _ _ => rfl
        parent := fun _ _ => rfl
        depth := hcaller.depth
        root := fun hp _ => hcaller.root hp (running_of_active hactive) }
    have hy := hcallee.begun hdef hrest (d := (s.quest p).depth + 1) (p := some p) hdepth nofun
    have htable := h.link hne hnochild (hcallee.parentless hrest) hleaf hx hy rfl rfl rfl hleaf rfl rfl rfl rfl
    have hquest : (State.updQuest ((s.updQuest p fun x => { x with child := some c, state := .suspended }).updQuest c
        fun x => { x with parent := some p }) c fun x =>
          { x with
            reason := none, late := false, depth := (s.quest p).depth + 1, current := 0, state := .active }).quest
        = Function.update (Function.update s.quest p { s.quest p with child := some c, state := .suspended }) c
          { s.quest c with
            reason := none, late := false, depth := (s.quest p).depth + 1, current := 0, state := .active
            parent := some p } := by
      rw [quest_updQuest, updQuest_self, quest_updQuest, Function.update_idem, updQuest_other _ _ _ _ hne, quest_updQuest]
    unfold State.beginQuest
    refine EngineLawful.enterStep ?_ ?_ ?_ ?_ w
    · unfold QuestsLawful
      rw [hquest]
      exact htable
    all_goals rw [hquest, Function.update_self]
    · exact hcallee.unbound_of_rest hrest
    · exact (hcallee.range hdef).1

/-! ### The end of a step and of a quest -/

theorem EngineLawful.advanceQuest {s : State} (h : QuestsLawful s) {q : Fin 32} (hactive : (s.quest q).state = .active)
    (hunbound : (s.quest q).bound = none) (w : WorkItem) (how : Ended) : EngineLawful (s.advanceQuest w q how) := by
  have hentry := h.entry q
  have hnochild : (s.quest q).child = none := hentry.childless (by rw [hactive]; decide)
  simp only [State.advanceQuest]
  split
  · next hmore => exact EngineLawful.enterStep h hactive hunbound hmore w
  · generalize State.questNotice _ w q .questDone = n
    have hrange := hentry.range (by rw [hactive]; decide)
    cases hparent : (s.quest q).parent with
    | none =>
      have hdone : QuestsLawful (s.updQuest q fun c => { c with state := .done, late := false }) :=
        h.updQuest (.of_rest rfl (fun _ => hrange) hunbound hparent hnochild hentry.depth) rfl rfl rfl (.inl rfl)
      exact .withTask (hdone.handNotice _) trivial
    | some p =>
      have hne : p ≠ q := (h.parent_ne hparent).symm
      have hp := h.entry p
      have hsuspended : (s.quest p).state = .suspended := hp.child q ((h.links.iff p q).mpr hparent)
      have hfree : (s.quest p).bound = none := hp.unbound (by rw [hsuspended]; decide) (by rw [hsuspended]; decide)
      have hrun : (s.quest p).state.running = true := by rw [hsuspended]; rfl
      have hx : { s.quest q with state := .done, late := false, parent := none }.Fits s.stepTimer :=
        .of_rest rfl (fun _ => hrange) hunbound rfl hnochild hentry.depth
      have hy : { s.quest p with child := none, state := .active }.Fits s.stepTimer :=
        { range := fun _ => hp.range (defined_of_running hrun)
          current := fun _ => hp.current hrun
          bound := fun t ht => by cases hfree.symm.trans ht
          child := fun _ hc => by cases hc
          parent := fun _ _ => rfl
          depth := hp.depth
          root := fun hroot _ => hp.root hroot hrun }
      have htable := h.unlink hparent hx hy rfl rfl rfl rfl rfl rfl rfl rfl
      have hquest : ((s.updQuest q fun c => { c with state := .done, late := false }).handNotice
          { n with ended := some how }).quest
          = Function.update s.quest q { s.quest q with state := .done, late := false } := by
        rw [quest_handNotice, quest_updQuest]
      refine .withTask (questsLawful_of_pair (u := s) hne ?_ ?_ hquest htable) ?_
      · exact binderOf_of_timers (by simp)
      · simp
      · have hself := updQuest_self
          (State.updQuest ((s.updQuest q fun c => { c with state := .done, late := false }).handNotice
            { n with ended := some how }) q fun c => { c with parent := none }) p
          fun c => { c with child := none, state := .active }
        refine ⟨congrArg Quest.state hself, (congrArg Quest.bound hself).trans ?_⟩
        change (State.quest (State.updQuest _ q _) p).bound = none
        rw [updQuest_other _ _ _ _ hne, hquest, Function.update_of_ne hne]
        exact hfree

theorem EngineLawful.failQuest {s : State} (h : QuestsLawful s) {q : Fin 32}
    (hrun : (s.quest q).state.running = true) (hnochild : (s.quest q).child = none) (w : WorkItem) (reason : FailReason)
    (timer : Option (Fin 8)) (upTo : Option (Fin 32)) : EngineLawful (s.failQuest w q reason timer upTo) := by
  have hreleased := h.release q
  have hself := release_quest_self s q
  have hrange := (h.entry q).range (defined_of_running hrun)
  simp only [State.failQuest]
  rw [updQuest_self]
  generalize hn : ({ State.questNotice _ w q .questFailed with reason := some reason, timer := timer } : Notice) = n
  have hquest : (State.updQuest (((s.release q).updQuest q fun c =>
      { c with reason := some reason, state := .failed }).handNotice n) q fun c => { c with late := false }).quest
      = Function.update (s.release q).quest q
        { s.quest q with bound := none, reason := some reason, state := .failed, late := false } := by
    rw [quest_updQuest, quest_handNotice, quest_updQuest, Function.update_self, Function.update_idem, hself]
  split
  · next hparent =>
    have hnoparent : (s.quest q).parent = none := (congrArg Quest.parent hself).symm.trans hparent
    have hx : { s.quest q with bound := none, reason := some reason, state := .failed, late := false }.Fits
        (s.release q).stepTimer := .of_rest rfl (fun _ => hrange) rfl hnoparent hnochild (h.entry q).depth
    have htable := QuestTable.replace hreleased (q := q) hx (by rw [hself]) (by rw [hself]) (by rw [hself])
      (.inl (by rw [hself]))
    refine .withTask (questsLawful_of_quest ?_ ?_ hquest htable) trivial
    · exact binderOf_of_timers (by simp)
    · simp
  · next p hparent =>
    have hne : p ≠ q := (hreleased.parent_ne hparent).symm
    have hp := hreleased.entry p
    have hsuspended : ((s.release q).quest p).state = .suspended := hp.child q ((hreleased.links.iff p q).mpr hparent)
    have hx : { s.quest q with
        bound := none, reason := some reason, state := .failed, late := false, parent := none }.Fits
        (s.release q).stepTimer := .of_rest rfl (fun _ => hrange) rfl rfl hnochild (h.entry q).depth
    have hy : { (s.release q).quest p with child := none }.Fits (s.release q).stepTimer :=
      { hp with child := fun _ hc => by cases hc }
    have htable := QuestTable.unlink hreleased hparent hx hy rfl rfl (by rw [hself]) rfl (by rw [hself]) rfl
      (by rw [hself]) rfl
    refine .withTask (questsLawful_of_pair (u := s.release q) hne ?_ ?_ hquest htable) ?_
    · exact binderOf_of_timers (by simp)
    · simp
    · have hfinal := quest_updQuest_pair (State.updQuest (((s.release q).updQuest q fun c =>
          { c with reason := some reason, state := .failed }).handNotice n) q fun c => { c with late := false }) hne
          (fun c => { c with parent := none }) fun c => { c with child := none }
      have hfinalp := congrFun hfinal p
      rw [Function.update_self, hquest, Function.update_of_ne hne] at hfinalp
      refine ⟨?_, congrArg Quest.child hfinalp⟩
      rw [congrArg Quest.state hfinalp, hsuspended]
      rfl

/-! ### The timeout action (R36 to R39) -/

theorem EngineLawful.timeoutQuest {s : State} (h : QuestsLawful s) {q : Fin 32}
    (hactive : (s.quest q).state = .active) (w : WorkItem) : EngineLawful (s.timeoutQuest w q) := by
  have hreleased := h.release q
  have hself := release_quest_self s q
  have hstate : ((s.release q).quest q).state = .active := by
    rw [hself]
    exact hactive
  have hfree : ((s.release q).quest q).bound = none := by rw [hself]
  simp only [State.timeoutQuest]
  split
  · exact .withTask hreleased
      ⟨running_of_active hstate, (hreleased.entry q).childless (by rw [hstate]; decide)⟩
  · split
    · refine .withTask (hreleased.handNotice _) ?_
      change (State.quest (State.handNotice _ _) q).state = .active ∧ (State.quest (State.handNotice _ _) q).bound = none
      rw [quest_handNotice]
      exact ⟨hstate, hfree⟩
    · exact .withTask hreleased ⟨hstate, hfree⟩
  · exact .withTask (hreleased.handNotice _) trivial

/-! ### The pass of a step (R33, R34) -/

theorem EngineLawful.passStep {s : State} (h : QuestsLawful s) {q : Fin 32} (hactive : (s.quest q).state = .active)
    (w : WorkItem) : EngineLawful (s.passStep w q) := by
  have hself := release_quest_self s q
  refine .withTask (h.release q) ⟨?_, ?_⟩ <;> rw [hself]
  exact hactive

theorem EngineLawful.requestEffect {s : State} (h : QuestsLawful s) {q : Fin 32}
    (hquest : (s.quest q).state = .active ∧ (s.quest q).bound = none) (w : WorkItem) (i : Nat)
    (outs : List EffectResult) : EngineLawful (s.requestEffect w q i outs) := by
  simp only [State.requestEffect]
  split
  · split
    · exact .withTask h hquest
    · exact .withTask (h.congr rfl rfl rfl) hquest
  · exact .withTask h hquest

theorem EngineLawful.finishPass {s : State} (h : QuestsLawful s) {q : Fin 32}
    (hquest : (s.quest q).state = .active ∧ (s.quest q).bound = none) (w : WorkItem) (outs : List EffectResult) :
    EngineLawful (s.finishPass w q outs) := by
  have hafter : ∀ v : State, QuestsLawful v → v.quest = s.quest → EngineLawful
      (match (s.currentStep q).call with
        | none => v.withTask w (.advance q .passed)
        | some c => v.makeCall w q c) := fun v hv hsame => by
    rw [← hsame] at hquest
    obtain ⟨hactive, hunbound⟩ := hquest
    split
    · exact .withTask hv ⟨hactive, hunbound⟩
    · exact EngineLawful.makeCall hv hactive hunbound w _
  simp only [State.finishPass]
  refine hafter _ ?_ ?_
  · split
    · exact h.handNotice _
    · exact h
  · split
    · exact quest_handNotice _ _
    · rfl

/-! ### The visit of a WATCH trigger (R67 to R70) -/

/-- R68: only an ACTIVE quest is touched. -/
theorem lawful_visitTask {s : State} (h : QuestsLawful s) (w : WorkItem) (q : Fin 32) (v : Fin 64) :
    (s.visitTask w q v).lawful s := by
  simp only [State.visitTask]
  split
  · trivial
  · next hstate =>
    have hactive : (s.quest q).state = .active := by simpa using hstate
    have hpass : (Task.pass q).lawful s := hactive
    split
    · trivial
    · split
      · split
        · exact hpass
        · split
          · exact hpass
          · trivial
      · split
        · exact ⟨running_of_active hactive, (h.entry q).childless (by rw [hactive]; decide)⟩
        · trivial

theorem EngineLawful.endWork {s : State} (h : QuestsLawful s) (w : WorkItem) : EngineLawful (s.endWork w) := by
  have hidle : EngineLawful { s with work := none } := .ofIdle (h.congr rfl rfl rfl) rfl
  unfold State.endWork
  split
  · exact hidle.ofSame (by simp) (by simp) (by simp) (by simp)
  all_goals exact hidle

theorem EngineLawful.nextVisit {s : State} (h : QuestsLawful s) (w : WorkItem) : EngineLawful (s.nextVisit w) := by
  unfold State.nextVisit
  split
  · exact EngineLawful.endWork h w
  · split
    · exact .withTask h (lawful_visitTask h w _ _)
    · exact .withTask h trivial
    · exact .withTask h trivial

/-! ### A run of the engine -/

theorem EngineLawful.engineStep {s : State} {w : WorkItem} (h : EngineLawful s) (hwork : s.work = some w) :
    EngineLawful (s.engineStep w) := by
  have htask := h.task w hwork
  have hquests := h.quests
  have hlawful : ∀ {k : Task}, w.task = k → k.lawful s := fun hk => hk ▸ htask
  unfold State.engineStep
  cases hw : w.task with
  | nextVisit => exact EngineLawful.nextVisit hquests w
  | pass q => exact EngineLawful.passStep hquests (hlawful hw) w
  | effects q i outs => exact EngineLawful.requestEffect hquests (hlawful hw) w i outs
  | awaiting q i outs => exact h
  | passed q outs => exact EngineLawful.finishPass hquests (hlawful hw) w outs
  | advance q how =>
    obtain ⟨hactive, hunbound⟩ : (Task.advance q how).lawful s := hlawful hw
    exact EngineLawful.advanceQuest hquests hactive hunbound w how
  | timeout q => exact EngineLawful.timeoutQuest hquests (hlawful hw) w
  | fail q reason timer upTo =>
    obtain ⟨hrun, hnochild⟩ : (Task.fail q reason timer upTo).lawful s := hlawful hw
    exact EngineLawful.failQuest hquests hrun hnochild w reason timer upTo

theorem EngineLawful.runEngine {s : State} (h : EngineLawful s) : EngineLawful s.runEngine :=
  runParts_keeps (P := EngineLawful) (fun hwork _ h => h.engineStep hwork) _ h

theorem EngineLawful.beginWork {s : State} (h : QuestsLawful s) (source : Source) (depth player : Nat)
    (visits : List (Fin 32)) {task : Task} (htask : task.lawful s) :
    EngineLawful (s.beginWork source depth player visits task) := by
  refine EngineLawful.runEngine ⟨h.congr rfl rfl rfl, fun w hw => ?_⟩
  cases hw
  exact lawful_of_quest rfl htask

theorem EngineLawful.effectReported {s : State} (h : EngineLawful s) (r : EffectResult) :
    EngineLawful (s.effectReported r) := by
  unfold State.effectReported
  split
  · exact h
  · next w hwork =>
    split
    · next q i outs htask =>
      have hawaiting := h.task w hwork
      rw [htask] at hawaiting
      exact EngineLawful.runEngine (.withTask h.quests hawaiting)
    all_goals exact h

end Sys2Proof.Machine
end

section
/-! PROOFS. Every step keeps the laws of the quest table. -/

namespace Sys2Proof.Machine

open Sys2Proof

/-! ### A table at rest (R55, R133) -/

theorem mutual_none {m n : Nat} {f : Fin m → Option (Fin n)} {g : Fin n → Option (Fin m)} (hf : ∀ a, f a = none)
    (hg : ∀ b, g b = none) : Mutual f g := by
  refine ⟨fun a b => ?_⟩
  rw [hf, hg]
  exact ⟨nofun, nofun⟩

theorem QuestTable.ofRest {quest : Fin 32 → Quest} {binder : Fin 8 → Option (Fin 32)} {timerOf : Nat → Option (Fin 8)}
    (hentry : ∀ q, (quest q).Fits timerOf) (hrest : ∀ q, (quest q).state.running = false)
    (hbinder : ∀ t, binder t = none) : QuestTable quest binder timerOf where
  entry := hentry
  binding := mutual_none hbinder fun q => (hentry q).unbound_of_rest (hrest q)
  links := mutual_none (fun q => (hentry q).childless (not_suspended_of_rest (hrest q)))
    fun q => (hentry q).parentless (hrest q)
  deeper q p hp := by cases ((hentry q).parentless (hrest q)).symm.trans hp

theorem Quest.warmReset_rest (x : Quest) : x.warmReset.state.running = false := by
  unfold Quest.warmReset
  split
  · next hvacant =>
    rw [hvacant]
    rfl
  · rfl

theorem Quest.Fits.warmReset {x : Quest} {timerOf : Nat → Option (Fin 8)} (h : x.Fits timerOf) :
    x.warmReset.Fits timerOf := by
  unfold Quest.warmReset
  split
  · exact h
  · next hdef => exact .of_rest rfl (fun _ => h.range hdef) rfl rfl rfl (Nat.zero_le 3)

theorem Quest.fits_cleared (timerOf : Nat → Option (Fin 8)) : Quest.cleared.Fits timerOf :=
  .of_rest rfl (fun hdef => absurd rfl hdef) rfl rfl rfl (Nat.zero_le 3)

theorem EngineLawful.warmReset {s : State} (h : EngineLawful s) : EngineLawful s.warmReset := by
  have hquest : s.warmReset.quest = fun q => (s.quest q).warmReset := by
    funext q
    rw [warmReset_eq]
    simp [State.quest]
  have hbinder : ∀ t, s.warmReset.binderOf t = none := by
    intro t
    rw [warmReset_eq]
    simp [State.binderOf, State.timer, Timer.warmReset]
  have hsteps : s.warmReset.stepTimer = s.stepTimer := stepTimer_of_steps (by rw [warmReset_eq])
  refine .ofIdle ?_ (by rw [warmReset_eq])
  unfold QuestsLawful
  rw [hquest, hsteps]
  exact .ofRest (fun q => (h.quests.entry q).warmReset) (fun q => Quest.warmReset_rest _) hbinder

theorem engineLawful_poweredOn (s : State) (msz256 cpselHigh : Bool) : EngineLawful (s.poweredOn msz256 cpselHigh) := by
  have hquest : ∀ q, (s.poweredOn msz256 cpselHigh).quest q = Quest.cleared := fun q => by
    simp [State.quest, State.poweredOn, State.reset]
  refine .ofIdle (.ofRest (fun q => ?_) (fun q => ?_) fun t => ?_) rfl
  · rw [hquest]
    exact Quest.fits_cleared _
  · rw [hquest]
    rfl
  · simp [State.binderOf, State.timer, State.poweredOn, State.reset, Timer.cleared]

/-! ### The chain of a quest (R79, R80, R89) -/

/-- The bottom of a chain runs and has no child: a chain is at most four quests deep. -/
theorem bottomOf_lawful {s : State} (h : QuestsLawful s) (n : Nat) {q : Fin 32} (hrun : (s.quest q).state.running = true)
    (hdeep : 3 < (s.quest q).depth + n) :
    (s.quest (s.bottomOf n q)).state.running = true ∧ (s.quest (s.bottomOf n q)).child = none := by
  induction n generalizing q with
  | zero =>
    have hmost := (h.entry q).depth
    omega
  | succ n ih =>
    unfold State.bottomOf
    split
    · next hnochild => exact ⟨hrun, hnochild⟩
    · next c hchild =>
      have hparent : (s.quest c).parent = some q := (h.links.iff q c).mp hchild
      have hdepth := h.deeper c q hparent
      exact ih ((h.entry c).parent q hparent) (by omega)

/-! ### DEFINE STEPS (R42, R43) -/

theorem parseRecords_length {α : Type} {parse : Word → Word → Word → Except Status α} {words : List Word} {n : Nat} :
    ∀ {i : Nat} {recs : List α}, parseRecords parse words i n = .ok recs → recs.length = n := by
  induction n with
  | zero =>
    intro i recs h
    cases h
    rfl
  | succ n ih =>
    intro i recs h
    unfold parseRecords at h
    split at h
    · cases h
    · split at h
      · cases h
      · next rs hrest =>
        cases h
        rw [List.length_cons, ih hrest]

theorem writeRecords_apart {α : Type} {n : Nat} (recs : List α) {first : Nat} {table : Vector α n} {k : Nat} (hk : k < n)
    (hapart : k < first ∨ first + recs.length ≤ k) : (writeRecords table first recs)[k] = table[k] := by
  induction recs generalizing first table with
  | nil => rfl
  | cons r rest ih =>
    rw [List.length_cons] at hapart
    unfold writeRecords
    rw [ih (by omega), Vector.getElem_setIfInBounds_ne _ (by omega)]

/-- R43: a record of a running quest is not written. -/
theorem stepInUse_current {s : State} (h : QuestsLawful s) {q : Fin 32} (hrun : (s.quest q).state.running = true) :
    s.stepInUse ((s.quest q).firstStep + (s.quest q).current) = true := by
  have hcurrent := (h.entry q).current hrun
  unfold State.stepInUse
  refine List.any_eq_true.mpr ⟨q, List.mem_finRange q, ?_⟩
  simp only [hrun, Bool.true_and, Bool.and_eq_true, decide_eq_true_eq]
  omega

theorem QuestTable.retime {quest : Fin 32 → Quest} {binder : Fin 8 → Option (Fin 32)}
    {timerOf timerOf' : Nat → Option (Fin 8)} (h : QuestTable quest binder timerOf)
    (hsame : ∀ q, (quest q).state.running = true →
      timerOf' ((quest q).firstStep + (quest q).current) = timerOf ((quest q).firstStep + (quest q).current)) :
    QuestTable quest binder timerOf' := by
  refine ⟨fun q => { h.entry q with bound := fun t ht => ?_ }, h.binding, h.links, h.deeper⟩
  obtain ⟨hstate, htimer⟩ := (h.entry q).bound t ht
  have hrun : (quest q).state.running = true := by
    obtain hactive | hheld := hstate
    · rw [hactive]
      rfl
    · rw [hheld]
      rfl
  exact ⟨hstate, (hsame q hrun).trans htimer⟩

theorem stepTimer_writeRecords (s : State) {first k : Nat} {recs : List StepRec}
    (hapart : k < first ∨ first + recs.length ≤ k) :
    State.stepTimer { s with steps := writeRecords s.steps first recs } k = s.stepTimer k := by
  unfold State.stepTimer State.stepRec
  split
  · next hk => rw [writeRecords_apart recs hk hapart]
  · rfl

theorem QuestsLawful.defineSteps {s : State} (h : QuestsLawful s) {first n : Nat} {recs : List StepRec}
    (hlength : recs.length = n) (huse : (List.range n).any (fun i => s.stepInUse (first + i)) = false) :
    QuestsLawful { s with steps := writeRecords s.steps first recs } := by
  change QuestTable s.quest s.binderOf _
  refine QuestTable.retime h fun q hrun => ?_
  have hcurrent := stepInUse_current h hrun
  generalize (s.quest q).firstStep + (s.quest q).current = k at hcurrent
  refine stepTimer_writeRecords s ?_
  by_contra hin
  have hfree := List.any_eq_false.mp huse (k - first) (List.mem_range.mpr (by omega))
  rw [show first + (k - first) = k by omega] at hfree
  exact hfree hcurrent

/-! ### ACTIVE and HELD (R48, R49, R72) -/

theorem running_of_activeOrHeld {st : QuestState} (h : st = .active ∨ st = .held) : st.running = true := by
  obtain rfl | rfl := h <;> rfl

/-- Between ACTIVE and HELD an entry changes nothing that the laws speak of, whatever its late flag. -/
theorem QuestsLawful.switch {s : State} (h : QuestsLawful s) {q : Fin 32}
    (hold : (s.quest q).state = .active ∨ (s.quest q).state = .held) {f : Quest → Quest} {st : QuestState} {late : Bool}
    (hst : st = .active ∨ st = .held) (hf : f (s.quest q) = { s.quest q with state := st, late := late }) :
    QuestsLawful (s.updQuest q f) := by
  have hentry := h.entry q
  have hrun := running_of_activeOrHeld hold
  have hnochild : (s.quest q).child = none := hentry.childless fun hsuspended => by
    rw [hsuspended] at hold
    exact hold.elim nofun nofun
  refine h.updQuest ?_ (by rw [hf]) (by rw [hf]) (by rw [hf]) (.inl (by rw [hf]))
  rw [hf]
  exact
    { range := fun _ => hentry.range (defined_of_running hrun)
      current := fun _ => hentry.current hrun
      bound := fun t ht => ⟨hst, (hentry.bound t ht).2⟩
      child := fun c hc => by cases hnochild.symm.trans hc
      parent := fun _ _ => running_of_activeOrHeld hst
      depth := hentry.depth
      root := fun hp _ => hentry.root hp hrun }

theorem EngineLawful.takeTurn {s : State} (h : EngineLawful s) (e : SnoopWrite) : EngineLawful (s.takeTurn e) := by
  simp only [State.takeTurn]
  split
  · exact h.ofSame rfl rfl rfl rfl
  · have hcounted := h.clockEvent .turn
    generalize s.clockEvent .turn = v at hcounted
    exact hcounted.ofSame rfl rfl rfl rfl

/-! ### The effects -/

theorem EngineLawful.effect {s u : State} {c : Instr} (h : EngineLawful s) (heff : Effect s c u) : EngineLawful u := by
  have hquests := h.quests
  have reported : ∀ {v : State}, QuestsLawful v → v.work = none → ∀ st rs, EngineLawful (v.report st rs) :=
    fun hv hwork st rs => .ofIdle (hv.congr (quest_of_quests (by simp)) (binderOf_of_timers (by simp)) (by simp)) (by simpa)
  have htaken : QuestsLawful s.takeCommand :=
    hquests.congr (quest_of_quests (by simp)) (binderOf_of_timers (by simp)) (by simp)
  have hquest : s.takeCommand.quest = s.quest := quest_of_quests (by simp)
  cases heff with
  | warmReset => exact h.warmReset
  | loadQuest words q first count order owner tag hhands hpos hmax hfit hrest =>
    have hentry := hquests.entry q
    refine reported (hquests.updQuest ?_ ?_ ?_ ?_ (.inr ⟨rfl, rfl⟩)) hhands.2 _ _
    · exact .of_rest rfl (fun _ => ⟨hpos, hmax, hfit⟩) rfl rfl rfl (Nat.zero_le 3)
    · exact (hentry.parentless hrest).symm
    · exact (hentry.childless (not_suspended_of_rest hrest)).symm
    · exact (hentry.unbound_of_rest hrest).symm
  | unloadQuest words q hhands hrest =>
    have hentry := hquests.entry q
    refine reported (hquests.updQuest (Quest.fits_cleared _) ?_ ?_ ?_ (.inr ⟨rfl, rfl⟩)) hhands.2 _ _
    · exact (hentry.parentless hrest).symm
    · exact (hentry.childless (not_suspended_of_rest hrest)).symm
    · exact (hentry.unbound_of_rest hrest).symm
  | defineSteps words recs hhands hparse huse =>
    exact reported (hquests.defineSteps (parseRecords_length hparse) huse) hhands.2 _ _
  | startQuest words q hhands hdef hrest hvalid =>
    exact (EngineLawful.beginQuest htaken (hquest ▸ hdef) (hquest ▸ hrest) _).runEngine
  | holdQuest words q hhands hactive =>
    exact reported (hquests.switch (.inl hactive) (.inr rfl) rfl) hhands.2 _ _
  | resumeQuest words q hhands hheld =>
    have hresumed : QuestsLawful (s.takeCommand.updQuest q fun c => { c with state := .active, late := false }) :=
      htaken.switch (.inr (hquest ▸ hheld)) (.inl rfl) rfl
    exact reported hresumed ((takeCommand_work s).trans hhands.2) _ _
  | resumeLate words q hhands hheld =>
    have hresumed : QuestsLawful (s.takeCommand.updQuest q fun c => { c with state := .active, late := false }) :=
      htaken.switch (.inr (hquest ▸ hheld)) (.inl rfl) rfl
    refine EngineLawful.beginWork hresumed _ _ _ _ ?_
    change (State.quest (State.updQuest _ q _) q).state = .active
    rw [updQuest_self]
  | abandonQuest words q hhands hrun =>
    refine EngineLawful.beginWork htaken _ _ _ _ ?_
    change (s.takeCommand.quest _).state.running = true ∧ (s.takeCommand.quest _).child = none
    rw [hquest]
    exact bottomOf_lawful hquests 32 hrun (by omega)
  | engineGoesOn => exact h.runEngine
  | takeWatchEntry v writer depth rest =>
    have hdequeued : QuestsLawful { s with queue := rest } := hquests.congr rfl rfl rfl
    exact EngineLawful.beginWork hdequeued _ _ _ _ (task := .nextVisit) trivial
  | lateExpiry k q rest hwork _ _ hheld =>
    have hdequeued : QuestsLawful { s with queue := rest } := hquests.congr rfl rfl rfl
    have hlate : { s.quest q with late := true } = { s.quest q with state := .held, late := true } :=
      congrArg (fun st => { s.quest q with state := st, late := true }) hheld
    exact .ofIdle (hdequeued.switch (.inr hheld) (.inr rfl) hlate) hwork
  | timeoutExpiry k q rest hwork _ _ hactive =>
    have hdequeued : QuestsLawful { s with queue := rest } := hquests.congr rfl rfl rfl
    exact EngineLawful.beginWork hdequeued _ _ _ _ (task := .timeout q) hactive
  | denyEffect j =>
    have hidle : EngineLawful { s.endIRGrant.recordFault .effect .write j.record.addr with effectUnit := .idle } :=
      h.ofSame rfl rfl rfl rfl
    exact hidle.effectReported _
  | effectSettled old new =>
    have hsettled := h.settleTimers
    generalize s.settleTimers = v at hsettled
    have hidle : EngineLawful { v with effectUnit := .idle } := hsettled.ofSame rfl rfl rfl rfl
    exact hidle.effectReported _
  | beat => exact h.clockEvent .beat
  | takeTurn e =>
    have taken : EngineLawful (s.takeFor .page) := h.ofSame rfl rfl rfl rfl
    exact taken.takeTurn e
  | expiry k => exact h.congr (by rfl) (binderOf_expire s k) (by rfl) (by rfl)
  | timerAnswer =>
    exact h.settleTimers.ofSame (by simp) (by simp) (by simp) (by simp)
  | timerSet c words k f hcmd hbinder =>
    have hsettled := h.settleTimers
    generalize s.settleTimers = v at hsettled
    have hset : EngineLawful (v.updTimer k f) := hsettled.congr rfl (binderOf_updTimer_same (hbinder _)) rfl rfl
    exact hset.ofSame (by simp) (by simp) (by simp) (by simp)
  | request | read | drop | arm | resync | installRing | holdRing =>
    exact h.ofSame (by simp [State.installRing]) (by simp [State.installRing]) (by simp [State.installRing])
      (by simp [State.installRing])
  | refuse =>
    exact h.ofSame (by simp [State.refuseAccess]) (by simp [State.refuseAccess]) (by simp [State.refuseAccess])
      (by simp [State.refuseAccess])
  | store =>
    exact h.ofSame (by simp [State.masterStore]) (by simp [State.masterStore]) (by simp [State.masterStore])
      (by simp [State.masterStore])
  | clear =>
    exact h.ofSame (by simp [State.clearCauses]) (by simp [State.clearCauses]) (by simp [State.clearCauses])
      (by simp [State.clearCauses])
  | takeWrite e =>
    have taken : EngineLawful ((s.takeFor .watch).takeWrite e) := by
      rw [takeWrite_eq]
      exact h.ofSame rfl rfl rfl rfl
    exact taken.ofSame (by simp) (by simp) (by simp) (by simp)
  | takeSync r word =>
    have taken : EngineLawful ((s.takeFor .watch).takeSync r word) := by
      rw [takeSync_eq]
      exact h.ofSame rfl rfl rfl rfl
    exact taken.ofSame (by simp) (by simp) (by simp) (by simp)
  | takeProduceIndex e =>
    rw [takeProduceIndex_eq]
    exact h.ofSame rfl rfl rfl rfl
  | takeConsumeIndex e =>
    rw [takeConsumeIndex_eq]
    exact h.ofSame rfl rfl rfl rfl
  | disarm words w =>
    rw [freeWatch_eq]
    exact h.ofSame rfl rfl rfl rfl
  | publishElement =>
    rw [publishElement_eq]
    exact h.ofSame rfl rfl rfl rfl
  | ringConsumeWord | ringAnswered =>
    rw [writerFree_eq]
    exact h.ofSame rfl rfl rfl rfl
  | statusWord =>
    rw [writeStatus_eq]
    exact h.ofSame rfl rfl rfl rfl
  | consumeIndex =>
    rw [writeConsume_eq]
    exact h.ofSame rfl rfl rfl rfl
  | fetch =>
    rw [fetched_eq]
    exact h.ofSame rfl rfl rfl rfl
  | _ => exact h.ofSame rfl rfl rfl rfl

theorem keptByEffects_engineLawful : KeptByEffects EngineLawful where
  pending _ h := h.ofSame rfl rfl rfl rfl
  powerOn _ _ _ := engineLawful_poweredOn _ _ _
  deassert h := h.ofSame rfl rfl rfl rfl
  react h := h.ofSame (react_quests _) (react_timers _) (react_steps _) (react_work _)
  effect h heff := h.effect heff

/-- Settles O54. -/
theorem stepsKeepTheQuestTableLawful : Obligations.StepsKeepTheQuestTableLawful := fun _ _ h hstep =>
  engineLaw_iff.mpr (keptByEffects_engineLawful.step (engineLaw_iff.mp h) hstep)

end Sys2Proof.Machine
end

section
/-! PROOFS. What every command answers, the power-on reset with its zero writes, and the laws at the reset. -/

namespace Sys2Proof.Machine

open Sys2Proof

/-! ### Every command (O1, O2) -/

/-- Settles O1. -/
theorem stepRunsFrontCommand : Obligations.StepRunsFrontCommand := by
  refine ⟨fun s c rest => rfl, fun s hempty => ?_⟩
  unfold step
  rw [hempty]

theorem EngineKeeps.pending_of {s v u : State} (hkeep : EngineKeeps v u) (h : v.pending = s.pending) :
    u.pending = s.pending := hkeep.pending_eq.trans h

/-- No effect touches the queue of waiting commands. -/
theorem Effect.pending {s u : State} {c : Instr} (heff : Effect s c u) : u.pending = s.pending := by
  cases heff with
  | warmReset => rw [warmReset_eq]
  | takeWrite e => rw [advanceWatchReset_pending, takeWrite_eq, takeFor_pending]
  | takeSync r word => rw [advanceWatchReset_pending, takeSync_eq, takeFor_pending]
  | takeTurn e => rw [takeTurn_eq, takeFor_pending]
  | takeProduceIndex e => rw [takeProduceIndex_eq, takeFor_pending]
  | takeConsumeIndex e => rw [takeConsumeIndex_eq, takeFor_pending]
  | beat => rw [clockEvent_eq]
  | timerAnswer | timerSet =>
    simp only [report_pending, updTimer_pending]
    rw [settleTimers_eq]
  | fetch => rw [fetched_eq]; rfl
  | disarm => rw [freeWatch_eq]; rfl
  | publishElement => rw [publishElement_eq]; rfl
  | ringConsumeWord | ringAnswered => rw [writerFree_eq]; rfl
  | statusWord => rw [writeStatus_eq]; rfl
  | consumeIndex => rw [writeConsume_eq]; rfl
  | startQuest words q => exact (keeps_startQuest s q).pending_of rfl
  | resumeQuest words q => exact (keeps_resumeQuest s q).pending_of rfl
  | resumeLate words q => exact ((keeps_resumeQuest s q).trans (keeps_beginWork _ _ _ _ _ _)).pending_of rfl
  | abandonQuest => exact ((keeps_takeCommand s).trans (keeps_beginWork _ _ _ _ _ _)).pending_of rfl
  | engineGoesOn => exact (keeps_runEngine s).pending_of rfl
  | takeWatchEntry | timeoutExpiry => exact (keeps_beginWork _ _ _ _ _ _).pending_of rfl
  | denyEffect j => exact (keeps_denyEffect _ j).pending_of rfl
  | effectSettled old new => exact (keeps_effectSettled s _).pending_of rfl
  | request | read | drop | arm | resync | installRing | holdRing => simp [State.installRing]
  | refuse => simp [State.refuseAccess]
  | store => simp [State.masterStore]
  | clear => simp [State.clearCauses]
  | _ => rfl

/-- Settles O2. -/
theorem everyCommandAnswersNext : Obligations.EveryCommandAnswersNext := by
  intro c s
  obtain ⟨t, ht, hdoes⟩ := exec_answers s c
  refine ⟨t, ht, ?_⟩
  cases hdoes with
  | nothing => rfl
  | powerOn => rfl
  | deassert => rfl
  | reacts heff => rw [react_pending, heff.pending]

/-! ### Power-on reset (O6, O7) -/

/-- Settles O6. -/
theorem powerOnResetLeavesClearedState : Obligations.PowerOnResetLeavesClearedState := by
  intro msz256 cpselHigh s
  refine ⟨s.poweredOn msz256 cpselHigh, rfl, rfl, rfl, rfl, rfl, rfl, rfl, rfl, rfl, fun n => ?_, rfl, rfl, fun i => ?_,
    rfl, rfl, fun w => ?_, rfl, rfl, rfl, fun q => ?_, fun n hn => ?_, rfl, fun n hn => ?_, rfl, fun k => ?_, rfl, rfl,
    rfl, rfl⟩
  · simp [State.region, State.poweredOn, State.reset, Region.cleared]
  · simp [State.poweredOn, State.reset]
  · simp [State.watch, State.poweredOn, State.reset]
  · simp [State.quest, State.poweredOn, State.reset, Quest.cleared]
  · simp [State.stepRec, State.poweredOn, State.reset, StepRec.zeroed, hn]
  · simp [State.effectRec, State.poweredOn, State.reset, EffectRec.zeroed, hn]
  · simp [State.timer, State.poweredOn, State.reset, Timer.cleared]

theorem zeroWriteReady_iff (s : State) :
    s.zeroWriteReady = true ↔
      s.mpa.hold = true ∧ s.mpa.zeroNext < 13 ∧ s.mpa.port = none ∧ s.entriesStanding < 4 := by
  unfold State.zeroWriteReady
  simp only [Bool.and_eq_true, decide_eq_true_eq, Option.isNone_iff_eq_none, and_assoc]

/-- Settles O7. -/
theorem zeroWritesClearThePageAndEndTheHold : Obligations.ZeroWritesClearThePageAndEndTheHold := by
  refine ⟨fun s hhold hnext hport hroom => ?_, fun s hno => ?_⟩
  · have hready := (zeroWriteReady_iff s).mpr ⟨hhold, hnext, hport, hroom⟩
    have hexec : exec .powerOnZeroWrite s = .next s.zeroWrite.react := if_pos hready
    rw [hexec]
    simp only [State.zeroWrite, State.endIRGrant, State.pageAddr, zeroOff, pushStream_mpa, hport]
  · refine if_neg fun hready => ?_
    obtain ⟨hhold, hnext, hport, hroom⟩ := (zeroWriteReady_iff s).mp hready
    obtain hclear | hlast | hbusy | hfull := hno
    · exact absurd (hhold.symm.trans hclear) (by decide)
    · omega
    · exact hbusy hport
    · omega

/-! ### A master's request (O9) -/

/-- Settles O9. -/
theorem masterRequestStandsAtItsPort : Obligations.MasterRequestStandsAtItsPort := by
  refine ⟨fun m a s hfree => ?_, fun m a s hbusy => ?_⟩
  · have hexec : exec (.masterRequest m a) s = .next (s.setPort m { s.port m with access := some a }).react := by
      simp [exec, execMasterRequest, hfree, State.done]
    exact hexec
  · simp [exec, execMasterRequest, hbusy]

/-! ### The laws at the reset (O50) -/

theorem settledTimers_reset : SettledTimers State.reset := by
  intro t
  have hcleared : State.timer State.reset t = Timer.cleared := by simp [State.timer, State.reset]
  rw [hcleared]
  rfl

/-- Settles O50. -/
theorem lawsHoldAtReset : Obligations.LawsHoldAtReset := by
  have haligned : Aligned State.reset := aligned_poweredOn State.reset false false
  have hwatches : ∀ w : Fin 64, State.reset.watch w = Watch.cleared := fun w => by simp [State.watch, State.reset]
  have hmem : MemoryLaw State.reset := (by decide : Memory.wf [])
  refine ⟨hmem, queueLaw_iff.mpr queueBounded_nil, engineLaw_iff.mpr (engineLawful_poweredOn State.reset false false),
    interruptLaw_of_nothing_pending rfl rfl rfl, ?_, .ofEnd rfl (Nat.zero_le _), grantLaw_iff.mpr ?_, ?_, ?_,
    settledTimers_reset⟩
  · exact ⟨Nat.zero_le _, Nat.zero_lt_succ _, Nat.zero_lt_succ _, nofun, nofun⟩
  · exact ⟨⟨nofun, nofun, fun _ => rfl, rfl, Nat.zero_le _⟩, .of_idle rfl⟩
  · refine shadowLaw_iff.mpr ⟨hmem, fun w => ?_, haligned, tracked_poweredOn State.reset false false⟩
    rw [hwatches]
    exact lawful_cleared
  · exact copyLaw_iff.mpr ⟨hmem, haligned, nofun, ⟨fun x hx => absurd hx (Nat.not_lt_zero _)⟩⟩

end Sys2Proof.Machine
end

section
/-! PROOFS. The masters' accesses, the rights that decide them, and what follows at once from every step. -/

namespace Sys2Proof.Machine

open Sys2Proof

/-! ### Permitted reads (O10) -/

section
variable {s : State} {m : Master} {a : Access}

theorem exec_masterRead_of_read (h : s.servesPermitted m a) (hdir : a.dir = .read)
    (hfog : ¬(m = .scan ∧ s.fogCurrent = false)) :
    exec .masterRead s = .next (s.endMasterGrant m (s.readData m a)).react := by
  have hgranted := grantedAccess_of_servesPermitted h
  obtain ⟨-, -, hpermitted⟩ := h
  change execMasterRead s = _
  simp [execMasterRead, hgranted, hdir, hpermitted, hfog, done_eq]

/-- R141: a scanner read waits for the fog unit. -/
theorem exec_masterRead_waits (h : s.servesPermitted .scan a) (hdir : a.dir = .read) (hfog : s.nextFor .fog ≠ none) :
    exec .masterRead s = .next s := by
  have hgranted := grantedAccess_of_servesPermitted h
  obtain ⟨-, -, hpermitted⟩ := h
  change execMasterRead s = _
  simp [execMasterRead, hgranted, hdir, hpermitted, State.fogCurrent, hfog]

theorem exec_masterWrite_of_passes (h : s.servesPermitted m a) (hdir : a.dir = .write)
    (hpass : s.interception m (wordAddrOf a) = .passes) :
    exec .masterWrite s = .next (s.masterStore m a).react := by
  have hgranted := grantedAccess_of_servesPermitted h
  obtain ⟨-, -, hpermitted⟩ := h
  change execMasterWrite s = _
  simp [execMasterWrite, hgranted, hdir, hpermitted, hpass, done_eq]

theorem exec_causeWordClear_of_clears (h : s.servesPermitted m a) (hdir : a.dir = .write)
    (hclear : s.interception m (wordAddrOf a) = .clears) :
    exec .causeWordClear s = .next (s.clearCauses a).react := by
  have hgranted := grantedAccess_of_servesPermitted h
  obtain ⟨-, -, hpermitted⟩ := h
  change execCauseWordClear s = _
  simp [execCauseWordClear, hgranted, hdir, hpermitted, hclear, done_eq]

variable (hport : s.mpa.port = some (.master m)) (hacc : (s.port m).access = some a) (hno : s.permits m a = false)
include hport hacc hno

theorem exec_masterRead_of_refused (hdir : a.dir = .read) : exec .masterRead s = .next (s.refuseAccess m a).react := by
  change execMasterRead s = _
  simp [execMasterRead, State.grantedAccess, hport, hacc, hdir, hno, done_eq]

theorem exec_masterWrite_of_refused (hdir : a.dir = .write) :
    exec .masterWrite s = .next (s.refuseAccess m a).react := by
  change execMasterWrite s = _
  simp [execMasterWrite, State.grantedAccess, hport, hacc, hdir, hno, done_eq]

end

/-- R137: what the scanner reads of a word that no region governs, of one whose region is not fogged or whose tile is
revealed, and of one in an unrevealed tile. -/
theorem scannerWord_ungoverned {s : State} {n : Nat} (h : s.governing n = none) : s.scannerWord n = readWord s.mem n := by
  unfold State.scannerWord
  rw [h]

theorem scannerWord_of_governing {s : State} {n : Nat} {r : Region} (h : s.governing n = some r) :
    s.scannerWord n = if r.fog && !s.tileRevealed (r.tileOf n) then r.fogWord else readWord s.mem n := by
  unfold State.scannerWord
  rw [h]

/-- Settles O10. -/
theorem permittedReadsReturnMemoryOrFog : Obligations.PermittedReadsReturnMemoryOrFog := by
  intro s m a hserves hdir
  refine ⟨fun hscan hfog => ?_, fun hcurrent => ⟨s.masterWord m (wordAddrOf a), ?_, fun hproc => ?_, fun hnone => ?_,
    fun r hr => ⟨fun hclear => ?_, fun n hn _ => ⟨fun hrevealed => ?_, fun hscan hfog hhidden => ?_⟩⟩⟩⟩
  · subst hscan
    exact exec_masterRead_waits hserves hdir hfog
  · refine exec_masterRead_of_read hserves hdir fun ⟨hscan, hbehind⟩ => ?_
    rw [State.fogCurrent, hcurrent hscan] at hbehind
    cases hbehind
  · subst hproc
    rfl
  · cases m with
    | proc => rfl
    | scan => exact scannerWord_ungoverned hnone
  all_goals
    have hword := scannerWord_of_governing hr
  · cases m with
    | proc => rfl
    | scan =>
      rw [hclear] at hword
      exact hword
  · have htile : s.tileRevealed (r.tileOf (wordAddrOf a)) = true := by
      rw [hn] at hrevealed
      exact hrevealed
    cases m with
    | proc => rfl
    | scan =>
      rw [htile, Bool.not_true, Bool.and_false] at hword
      exact hword
  · have htile : s.tileRevealed (r.tileOf (wordAddrOf a)) = false := by
      rw [hn] at hhidden
      exact hhidden
    subst hscan
    rw [htile, hfog] at hword
    exact hword

/-! ### Refused accesses (O11) -/

/-- Settles O11. -/
theorem refusedAccessesRaiseAccess : Obligations.RefusedAccessesRaiseAccess := by
  intro s m a hport hacc hno
  refine ⟨_, rfl, fun hdir => ?_, fun hdir => ?_⟩
  · rw [exec_masterRead_of_refused hport hacc hno hdir, State.refuseAccess, hdir]
    cases m <;> rfl
  · rw [exec_masterWrite_of_refused hport hacc hno hdir, State.refuseAccess, hdir]
    cases m <;> rfl

/-! ### Permitted writes (O12, O13) -/

theorem interception_clears (s : State) (n : Nat) : s.interception .proc n = .clears ↔ n = s.pageBase := by
  have hoff : s.pageAddr causeOff = s.pageBase := rfl
  unfold State.interception
  simp only [hoff]
  split
  · next heq => exact ⟨fun _ => heq, fun _ => rfl⟩
  · next hne =>
    refine ⟨fun h => ?_, fun h => absurd h hne⟩
    split at h <;> cases h

theorem wordAddrOf_add (a : Access) : wordAddrOf a + a.addr.toNat % 4 = a.addr.toNat := Nat.div_add_mod' _ 4

theorem has_lanesOf_byte {a : Access} (h : a.size = .byte) {i : Nat} (hi : i < 4) :
    (lanesOf a).has i = true ↔ i = a.addr.toNat % 4 := by
  have hlt := Nat.mod_lt a.addr.toNat (show 0 < 4 by decide)
  unfold lanesOf
  rw [h]
  interval_cases i <;> simp only [Lanes.has, beq_iff_eq] <;> omega

theorem has_lanesOf_halfword {a : Access} (h : a.size = .halfword) (heven : a.addr.toNat % 2 = 0) {i : Nat} (hi : i < 4) :
    (lanesOf a).has i = true ↔ i = a.addr.toNat % 4 ∨ i = a.addr.toNat % 4 + 1 := by
  unfold lanesOf
  rw [h]
  interval_cases i <;> simp only [Lanes.has, beq_iff_eq] <;> omega

theorem has_lanesOf_word {a : Access} (h : a.size = .word) (halign : a.addr.toNat % 4 = 0) {i : Nat} (hi : i < 4) :
    (lanesOf a).has i = true := by
  unfold lanesOf
  rw [h]
  interval_cases i <;> simp only [Lanes.has, beq_iff_eq, halign]

/-- Settles O12. -/
theorem permittedWritesStoreTheirLanes : Obligations.PermittedWritesStoreTheirLanes := by
  refine ⟨fun s n => ⟨rfl, interception_clears s n, interception_dropped s n, interception_passes s n⟩,
    fun a => ⟨wordAddrOf_add a, fun i hi => ⟨fun hsize => has_lanesOf_byte hsize hi,
      fun hsize heven => has_lanesOf_halfword hsize heven hi, fun hsize halign => has_lanesOf_word hsize halign hi⟩⟩,
    fun s m a hserves hdir hopen => ?_⟩
  refine exec_masterWrite_of_passes hserves hdir ?_
  cases m with
  | scan => rfl
  | proc =>
    obtain hscan | hopen := hopen
    · cases hscan
    · exact (interception_passes s _).mpr hopen

/-- Settles O13. -/
theorem causeWordWriteClearsItsOnes : Obligations.CauseWordWriteClearsItsOnes := by
  intro s a clear hserves hdir haddr hclear
  subst hclear
  exact exec_causeWordClear_of_clears hserves hdir ((interception_clears s _).mpr haddr)

/-! ### The rights (O15) -/

theorem inPage_iff (s : State) (a : Nat) : s.inPage a = true ↔ s.pageBase ≤ a ∧ a ≤ s.pageBase + 0xFFF := by
  unfold State.inPage
  simp only [Bool.and_eq_true, decide_eq_true_eq]
  unfold Config.pageSize
  omega

theorem isRevealWord_iff (s : State) (a : Nat) :
    s.isRevealWord a = true ↔ s.pageBase + 0x010 ≤ a ∧ a < s.pageBase + 0x020 := by
  unfold State.isRevealWord
  simp only [Bool.and_eq_true, decide_eq_true_eq]
  unfold State.pageAddr revealOff
  omega

theorem Region.covers_iff (r : Region) (a : Nat) : r.covers a = true ↔ r.enabled = true ∧ r.base ≤ a ∧ a < r.limit := by
  unfold Region.covers
  simp only [Bool.and_eq_true, decide_eq_true_eq, and_assoc]

/-- The last element of a list that a search by a fold finds. -/
theorem foldl_last_eq_none {α β : Type} {p : α → Bool} {f : α → β} {l : List α} {acc : Option β} :
    l.foldl (fun acc x => if p x then some (f x) else acc) acc = none ↔ acc = none ∧ ∀ x ∈ l, p x = false := by
  induction l generalizing acc with
  | nil => simp
  | cons x rest ih =>
    rw [List.foldl_cons, ih]
    cases hx : p x <;> simp [hx]

theorem foldl_last_eq_some {α β : Type} {p : α → Bool} {f : α → β} {l : List α} {acc : Option β} {y : β}
    (h : l.foldl (fun acc x => if p x then some (f x) else acc) acc = some y) :
    (acc = some y ∧ ∀ x ∈ l, p x = false)
      ∨ ∃ before x after, l = before ++ x :: after ∧ p x = true ∧ f x = y ∧ ∀ z ∈ after, p z = false := by
  induction l generalizing acc with
  | nil => exact .inl ⟨h, nofun⟩
  | cons x rest ih =>
    rw [List.foldl_cons] at h
    obtain ⟨hacc, hrest⟩ | ⟨before, z, after, hl, hz, hy, hafter⟩ := ih h
    · cases hx : p x with
      | true =>
        rw [hx, if_pos rfl] at hacc
        exact .inr ⟨[], x, rest, rfl, hx, Option.some.inj hacc, hrest⟩
      | false =>
        rw [hx, if_neg (by decide)] at hacc
        exact .inl ⟨hacc, List.forall_mem_cons.mpr ⟨hx, hrest⟩⟩
    · exact .inr ⟨x :: before, z, after, by rw [hl, List.cons_append], hz, hy, hafter⟩

theorem governing_eq_none_iff (s : State) (a : Nat) :
    s.governing a = none ↔
      ∀ n : Fin 16, ¬((s.region n).enabled = true ∧ (s.region n).base ≤ a ∧ a < (s.region n).limit) := by
  unfold State.governing
  rw [foldl_last_eq_none (p := fun n => (s.region n).covers a)]
  simp only [true_and, List.mem_finRange, forall_const, ← Bool.not_eq_true, Region.covers_iff]

/-- R154: the highest-numbered entry that contains the address. -/
theorem governing_eq_some {s : State} {a : Nat} {r : Region} (h : s.governing a = some r) :
    ∃ n : Fin 16, r = s.region n ∧ (s.region n).covers a = true ∧ ∀ k : Fin 16, n < k → (s.region k).covers a = false := by
  unfold State.governing at h
  obtain ⟨hnone, -⟩ | ⟨before, n, after, hl, hn, hr, hafter⟩ :=
    foldl_last_eq_some (p := fun n => (s.region n).covers a) (f := s.region) h
  · cases hnone
  · refine ⟨n, hr.symm, hn, fun k hk => hafter k ?_⟩
    have hsorted : (List.finRange 16).Pairwise (· < ·) := List.pairwise_lt_finRange 16
    have hmem : k ∈ List.finRange 16 := List.mem_finRange k
    rw [hl] at hsorted hmem
    obtain hbefore | hrest := List.mem_append.mp hmem
    · have hlt := (List.pairwise_append.mp hsorted).2.2 k hbefore n (List.mem_cons_self ..)
      exact absurd (lt_trans hk hlt) (lt_irrefl n)
    · exact (List.mem_cons.mp hrest).resolve_left fun heq => absurd (heq ▸ hk) (lt_irrefl _)

section
variable {s : State} {m : Master} {a : Access}

theorem permits_of_outside (h : s.installed ≤ a.addr.toNat ∨ misaligned a = true) : s.permits m a = false := by
  unfold State.permits
  rw [if_pos]
  simpa only [Bool.or_eq_true, decide_eq_true_eq] using h

variable (hin : a.addr.toNat < s.installed) (halign : misaligned a = false)
include hin halign

theorem permits_of_inside :
    s.permits m a =
      if s.inPage (wordAddrOf a) then decide (m = .proc)
      else
        match s.governing (wordAddrOf a) with
        | some r => r.rights.forMaster m a.dir
        | none => true := by
  unfold State.permits
  have hno : ¬((decide (s.installed ≤ a.addr.toNat) || misaligned a) = true) := by simpa [halign] using hin
  rw [if_neg hno]
  cases m <;> rfl

end

theorem misaligned_iff (a : Access) :
    misaligned a = true ↔ (a.size = .halfword ∧ a.addr.toNat % 2 ≠ 0) ∨ (a.size = .word ∧ a.addr.toNat % 4 ≠ 0) := by
  unfold misaligned
  cases a.size <;> simp

theorem permitsEffect_inside {s : State} {a : Nat} (h : a < s.installed) :
    s.permitsEffect a =
      if a = s.pageBase + 0x00C ∨ (s.pageBase + 0x010 ≤ a ∧ a < s.pageBase + 0x020) then true
      else if s.inPage a then false
      else
        match s.governing a with
        | some r => r.rights.effectWrite
        | none => true := by
  have hturn : s.pageAddr turnOff = s.pageBase + 0x00C := rfl
  unfold State.permitsEffect
  simp only [Nat.not_le.mpr h, if_false, hturn, isRevealWord_iff]
  by_cases hword : a = s.pageBase + 0x00C
  · simp only [hword, if_true, true_or]
  · simp only [hword, if_false, false_or] <;> rfl

/-- Settles O15. -/
theorem rightsAreDecidedByTheFirstCase : Obligations.RightsAreDecidedByTheFirstCase := by
  refine ⟨fun r => ⟨rfl, rfl, rfl, rfl⟩, fun s => ⟨rfl, fun hlow => ?_, fun hhigh hsmall => ?_, fun hhigh hlarge => ?_,
    fun a => ⟨inPage_iff s a, isRevealWord_iff s a⟩⟩, fun s m a => ⟨fun h => ?_, fun hin hhalf hword => ?_⟩,
    fun s a => ⟨fun h => ?_, fun hin => ?_⟩, fun s a => ⟨governing_eq_none_iff s a, fun r hr => ?_⟩⟩
  · simp [State.pageBase, Config.pageBase, hlow]
  · simp [State.pageBase, Config.pageBase, Config.installedSize, Config.pageSize, hhigh, hsmall]
  · simp [State.pageBase, Config.pageBase, Config.installedSize, Config.pageSize, hhigh, hlarge]
  · exact permits_of_outside (h.imp_right (misaligned_iff a).mpr)
  · have halign : misaligned a = false := by
      rw [← Bool.not_eq_true, misaligned_iff]
      rintro (⟨hsize, hodd⟩ | ⟨hsize, hodd⟩)
      · exact hodd (hhalf hsize)
      · exact hodd (hword hsize)
    have hpermits := permits_of_inside (s := s) (m := m) hin halign
    refine ⟨fun hpage => ?_, fun hpage => ?_⟩ <;> rw [hpage] at hpermits
    · exact hpermits
    · refine ⟨fun hnone => ?_, fun r hr => ?_⟩
      · rw [hnone] at hpermits
        exact hpermits
      · rw [hr] at hpermits
        exact hpermits
  · unfold State.permitsEffect
    exact if_pos h
  · have hpermits := permitsEffect_inside hin
    refine ⟨fun hopen => hpermits.trans (if_pos hopen), fun hpage hturn hreveal => ?_, fun hpage => ?_⟩
    · rw [if_neg (not_or.mpr ⟨hturn, hreveal⟩), if_pos hpage] at hpermits
      exact hpermits
    · have hout := (inPage_iff s a).not.mp (by simp [hpage])
      have hclosed : ¬(a = s.pageBase + 0x00C ∨ (s.pageBase + 0x010 ≤ a ∧ a < s.pageBase + 0x020)) := by omega
      rw [if_neg hclosed, if_neg (by simp [hpage])] at hpermits
      refine ⟨fun hnone => ?_, fun r hr => ?_⟩
      · rw [hnone] at hpermits
        exact hpermits
      · rw [hr] at hpermits
        exact hpermits
  · obtain ⟨n, hn, hcovers, hhigher⟩ := governing_eq_some hr
    obtain ⟨henabled, hbase, hlimit⟩ := (Region.covers_iff _ _).mp hcovers
    refine ⟨n, hn, henabled, hbase, hlimit, fun k hk hcovered => ?_⟩
    rw [← Region.covers_iff, hhigher k hk] at hcovered
    cases hcovered

/-! ### The reaction (O3) -/

theorem findSome?_five {α : Type} (a b c d e : Option α) :
    [a, b, c, d, e].findSome? id = (a <|> b <|> c <|> d <|> e) := by
  cases a <;> cases b <;> cases c <;> cases d <;> cases e <;> rfl

theorem publicationDue_iff (s : State) :
    s.publicationDue = true ↔
      s.cause.arrivals ≠ 0 ∨ s.cause.working ≠ s.cause.pendingSet ∨ s.cause.handed ≠ s.cause.enableSet
        ∨ s.fault ≠ s.cause.lastFault := by
  unfold State.publicationDue
  simp only [Bool.or_eq_true, bne_iff_ne, or_assoc]

/-- The publication that the reaction leaves (R169). -/
def State.nextPublication (s : State) : Publication :=
  if s.cause.publication = .idle ∧ s.publicationDue = true then .raising else s.cause.publication

theorem beginPublication_eq (s : State) :
    s.beginPublication = { s with cause := { s.cause with publication := s.nextPublication } } := by
  unfold State.beginPublication State.nextPublication
  simp only [Bool.and_eq_true, decide_eq_true_eq]
  split <;> rfl

/-- The grant that the reaction leaves at the port (R148, R151). -/
def State.nextGrant (s : State) : Option Grant :=
  if s.mpa.port.isSome || s.mpa.hold || decide (4 ≤ s.entriesStanding) then s.mpa.port
  else
    chooseGrant s.irRequest s.procPort.access.isSome s.scanPort.access.isSome s.mpa.previousIR s.mpa.lastMaster

theorem arbitrate_eq (s : State) : s.arbitrate = { s with mpa := { s.mpa with port := s.nextGrant } } := by
  unfold State.arbitrate State.nextGrant
  split <;> rfl

theorem nextGrant_of_busy {s : State} (h : s.mpa.port ≠ none ∨ s.mpa.hold = true ∨ 4 ≤ s.entriesStanding) :
    s.nextGrant = s.mpa.port := by
  unfold State.nextGrant
  rw [if_pos]
  simp only [Bool.or_eq_true, decide_eq_true_eq, Option.isSome_iff_ne_none, or_assoc]
  exact h

theorem nextGrant_of_free {s : State} (hport : s.mpa.port = none) (hhold : s.mpa.hold = false)
    (hroom : s.entriesStanding < 4) :
    s.nextGrant =
      chooseGrant s.irRequest s.procPort.access.isSome s.scanPort.access.isSome s.mpa.previousIR s.mpa.lastMaster := by
  unfold State.nextGrant
  rw [if_neg]
  simp only [hport, hhold, Option.isSome_none, Bool.or_self, Bool.false_or, decide_eq_true_eq]
  omega

theorem findSome?_requests (s : State) :
    [s.effectRequest, s.watchRequest, s.causeRequest, s.noticeRequest, s.commandRequest].findSome? id = s.irRequest :=
  findSome?_five ..

theorem entriesStanding_eq (s : State) :
    s.entriesStanding = s.stream.countP (fun it => match it.body with | .write _ => true | .syncMark _ => false) := by
  refine List.countP_congr fun it _ => ?_
  unfold StreamItem.isEntry
  cases it.body <;> exact Iff.rfl

/-- R149: each sub-client's request, by the state of its block. -/
theorem requests_by_state (s : State) :
    (∀ j, s.effectUnit = .grantWait j → s.effectRequest = some .effectRmw)
    ∧ ((∀ j, s.effectUnit ≠ .grantWait j) → s.effectRequest = none)
    ∧ (s.syncRead = none → s.watchRequest = none)
    ∧ (∀ r, s.syncRead = some r → s.watchRequest = if r.completed = true then none else some .syncRead)
    ∧ (s.cause.publication = .idle → s.causeRequest = none)
    ∧ (s.cause.publication = .raising →
        s.causeRequest = if s.fault = s.cause.lastFault then some .causeWrite else some .faultWrite)
    ∧ (s.cause.publication = .vectoring → s.causeRequest = some .vectorWrite)
    ∧ ((s.cause.publication = .resetCause ∨ s.cause.publication = .resetVector) → s.causeRequest = some .resetWrite)
    ∧ (∀ k, s.notice.writer = .writing k → s.noticeRequest = some .elementWrite)
    ∧ (s.notice.writer = .publishing → s.noticeRequest = some .produceWrite)
    ∧ (s.notice.writer = .idle → s.noticeRequest = if s.notice.indexWrites = 0 then none else some .ringIndexWrite)
    ∧ ((s.cmd = .idle ∨ ∃ words taken, s.cmd = .dispatched words taken) → s.commandRequest = none)
    ∧ (∀ words, s.cmd = .fetching words → s.commandRequest = some .fetchRead)
    ∧ (∀ st next results, s.cmd = .reporting st next results →
        s.commandRequest = if results = [] then some .statusWrite else some .resultWrite)
    ∧ (s.cmd = .advancing → s.commandRequest = some .consumeWrite) := by
  refine ⟨fun j h => ?_, fun h => ?_, fun h => ?_, fun r h => ?_, fun h => ?_, fun h => ?_, fun h => ?_, ?_, fun k h => ?_,
    fun h => ?_, fun h => ?_, ?_, fun words h => ?_, fun st next results h => ?_, fun h => ?_⟩
  · simp [State.effectRequest, h]
  · cases hunit : s.effectUnit with
    | grantWait j => exact absurd hunit (h j)
    | _ => simp [State.effectRequest, hunit]
  · simp [State.watchRequest, h]
  · simp [State.watchRequest, h]
  · simp [State.causeRequest, h]
  · simp [State.causeRequest, h]
  · simp [State.causeRequest, h]
  · rintro (h | h) <;> simp [State.causeRequest, h]
  · simp [State.noticeRequest, h]
  · simp [State.noticeRequest, h]
  · simp [State.noticeRequest, h]
  · rintro (h | ⟨words, taken, h⟩) <;> simp [State.commandRequest, h]
  · simp [State.commandRequest, h]
  · cases results <;> simp [State.commandRequest, h]
  · simp [State.commandRequest, h]

section
variable {ir : Option IRAccess} {previousIR : Bool} {last : Master}

theorem chooseGrant_ir {a : IRAccess} {proc scan : Bool} (h : (proc = false ∧ scan = false) ∨ previousIR = false) :
    chooseGrant (some a) proc scan previousIR last = some (.ir a) := by
  obtain ⟨rfl, rfl⟩ | rfl := h
  · rfl
  · cases proc <;> cases scan <;> rfl

variable (h : ir = none ∨ previousIR = true)
include h

theorem chooseGrant_proc : chooseGrant ir true false previousIR last = some (.master .proc) := by
  obtain rfl | rfl := h
  · rfl
  · cases ir <;> rfl

theorem chooseGrant_scan : chooseGrant ir false true previousIR last = some (.master .scan) := by
  obtain rfl | rfl := h
  · rfl
  · cases ir <;> rfl

theorem chooseGrant_both : chooseGrant ir true true previousIR last = some (.master (otherMaster last)) := by
  obtain rfl | rfl := h
  · rfl
  · cases ir <;> rfl

end

/-- Settles O3. -/
theorem reactionPublishesAndGrants : Obligations.ReactionPublishesAndGrants := by
  refine ⟨fun s => ?_, fun s => ?_⟩
  · obtain ⟨hwait, hnowait, hnoread, hread, hidle, hraising, hvectoring, hreset, hwriting, hpublishing, hfree, hquiet,
      hfetching, hreporting, hadvancing⟩ := requests_by_state s
    exact ⟨hwait, hnowait, hnoread, hread, hidle, hraising, hvectoring, hreset, hwriting, hpublishing, hfree, hquiet,
      hfetching, hreporting, hadvancing, entriesStanding_eq s⟩
  · obtain ⟨u, hu⟩ : ∃ u, u = s.nextPublication := ⟨_, rfl⟩
    have hbegin := beginPublication_eq s
    rw [← hu] at hbegin
    have hstand : s.beginPublication.entriesStanding = s.entriesStanding := by rw [hbegin]; rfl
    refine ⟨u, s.beginPublication.nextGrant, s.beginPublication.irRequest, ?_, fun hidle hdue => ?_,
      fun hidle harr hwork hhand hfault => ?_, fun hbusy => ?_, ?_, fun hbusy => ?_, fun hport hhold hroom => ?_⟩
    · rw [State.react, arbitrate_eq, hbegin]
    · rw [hu, State.nextPublication, if_pos ⟨hidle, (publicationDue_iff s).mpr hdue⟩]
    · rw [hu, State.nextPublication, if_neg, hidle]
      rintro ⟨-, hdue⟩
      obtain h | h | h | h := (publicationDue_iff s).mp hdue
      · exact h harr
      · exact h hwork
      · exact h hhand
      · exact h hfault
    · rw [hu, State.nextPublication, if_neg]
      exact fun h => hbusy h.1
    · rw [← findSome?_requests, hbegin]
      rfl
    · refine (nextGrant_of_busy ?_).trans (by rw [hbegin])
      rw [hstand, hbegin]
      exact hbusy
    · have hgrant := nextGrant_of_free (s := s.beginPublication) (by rw [hbegin]; exact hport) (by rw [hbegin]; exact hhold)
        (by rw [hstand]; exact hroom)
      generalize s.beginPublication.irRequest = r at hgrant
      rw [hgrant, hbegin]
      refine ⟨fun a ha hfirst => ?_, fun m hm hother hturn => ?_, fun hproc hscan hturn => ?_, fun hr hproc hscan => ?_⟩
      · rw [ha]
        refine chooseGrant_ir (hfirst.imp_left fun ⟨hproc, hscan⟩ => ?_)
        simp [hproc, hscan]
      · have hasks := Option.isSome_iff_ne_none.mpr hm
        have hquiet := Option.isSome_eq_false_iff.mpr (Option.isNone_iff_eq_none.mpr hother)
        cases m with
        | proc =>
          have hproc : s.procPort.access.isSome = true := hasks
          have hscan : s.scanPort.access.isSome = false := hquiet
          simp only [hproc, hscan]
          exact chooseGrant_proc hturn
        | scan =>
          have hscan : s.scanPort.access.isSome = true := hasks
          have hproc : s.procPort.access.isSome = false := hquiet
          simp only [hproc, hscan]
          exact chooseGrant_scan hturn
      · simp only [Option.isSome_iff_ne_none.mpr hproc, Option.isSome_iff_ne_none.mpr hscan]
        exact chooseGrant_both hturn
      · simp [hr, hproc, hscan, chooseGrant]

end Sys2Proof.Machine
end

section
/-! PROOFS. The copies of the host-owned words and the timer unit's events. -/

namespace Sys2Proof.Machine

open Sys2Proof

/-! ### The reveal and the enable copy (O18) -/

theorem revealIndex_of_addr {s : State} {a : Nat} {i : Fin 4} (h : a = s.pageBase + 0x010 + 4 * i.val) :
    s.revealIndex a = i := by
  refine Fin.ext ?_
  have hi := i.isLt
  have hval : (s.revealIndex a).val = (a - (s.pageBase + 0x010)) / 4 % 4 := rfl
  rw [hval]
  omega

/-- Settles O18. -/
theorem revealAndEnableCopiesTakeWrittenLanes : Obligations.RevealAndEnableCopiesTakeWrittenLanes := by
  refine ⟨fun s e i hnext haddr => ?_, fun s e copy hnext haddr hcopy => ?_⟩
  · have hexec : exec .revealCopyUpdate s = .next ((s.takeFor .fog).takeReveal e).react := by
      change execRevealCopyUpdate s = _
      simp [execRevealCopyUpdate, hnext, done_eq]
    have hindex : (s.takeFor .fog).revealIndex e.addr = i := revealIndex_of_addr haddr
    rw [hexec, State.takeReveal]
    simp only [hindex]
    rfl
  · subst hcopy
    have hexec : exec .enableWordTaken s = .next ((s.takeFor .page).takeEnable e).react := by
      change execEnableWordTaken s = _
      simp [execEnableWordTaken, nextPageWrite_of_next (off := enableOff) hnext haddr, done_eq]
    rw [hexec]
    rfl

/-! ### The clock events (O19, O21) -/

theorem clockEvent_timer {s : State} (hsettled : SettledTimers s) (c : Clock) (k : Fin 8) :
    (s.clockEvent c).timer k =
      if (s.timer k).state = .running ∧ (s.timer k).clock = c then { s.timer k with count := (s.timer k).count - 1 }
      else s.timer k := by
  simp only [State.clockEvent]
  rw [settleTimers_settled s hsettled]
  simp only [State.timer, Fin.getElem_fin, Vector.getElem_map]
  rfl

theorem clockEvent_of_settled {s : State} (hsettled : SettledTimers s) (c : Clock) :
    s.clockEvent c = { s with timers := s.timers.map (Timer.counted c) } := by
  simp only [State.clockEvent]
  rw [settleTimers_settled s hsettled]

theorem exec_turnWordTaken_of_next {s : State} {e : SnoopWrite} (hnext : s.nextFor .page = some (.write e))
    (haddr : e.addr = s.pageBase + 0x00C) :
    exec .turnWordTaken s = .next ((s.takeFor .page).takeTurn e).react := by
  change execTurnWordTaken s = _
  simp [execTurnWordTaken, nextPageWrite_of_next (off := turnOff) hnext haddr, done_eq]

/-- R167: the player field of a turn copy. -/
theorem bits_player (w : Word) : bits w 0 4 = w.toNat % 16 := by simp [bits]

/-- Settles O19. -/
theorem turnWordAdvancesTurnTimers : Obligations.TurnWordAdvancesTurnTimers := by
  intro s e copy hnext haddr hcopy
  have hexec := exec_turnWordTaken_of_next hnext haddr
  have hpage : (s.takeFor .page).page = s.page := takeFor_page s .page
  refine ⟨fun hsame => ?_, fun hchanged hsettled => ?_⟩
  · rw [hexec]
    simp only [State.takeTurn, bits_player, hpage, ← hcopy, hsame, if_true]
  · have htaken : SettledTimers (s.takeFor .page) := hsettled
    have hturn : (s.takeFor .page).takeTurn e =
        { s.takeFor .page with
          timers := s.timers.map (Timer.counted .turn), page := { s.page with turn := copy } } := by
      simp only [State.takeTurn, bits_player, hpage, ← hcopy, hchanged, if_false, clockEvent_of_settled htaken,
        takeFor_timers]
    rw [hturn] at hexec
    refine ⟨_, hexec, fun k => ?_, ?_, ?_, ?_, ?_, ?_, ?_, ?_⟩
    · unfold State.timer
      simp only [react_timers, Fin.getElem_fin, Vector.getElem_map]
      rfl
    · exact react_page _
    · exact react_queue _
    · exact react_quests _
    · exact react_mem _
    · exact react_beatOut _
    · exact react_arrivals _
    · exact react_stream _

/-- Settles O21. -/
theorem beatLowersRunningBeatTimers : Obligations.BeatLowersRunningBeatTimers := by
  refine ⟨fun s hreset hsettled => ⟨s.clockEvent .beat, ?_, ?_, clockEvent_timer hsettled .beat⟩, fun s hreset => ?_⟩
  · change execBeat s = _
    simp [execBeat, hreset, done_eq]
  · rw [clockEvent_of_settled hsettled]
  · change execBeat s = _
    simp [execBeat, hreset]

/-! ### Expiries (O22) -/

theorem expiryDue_iff (x : Timer) : x.expiryDue = true ↔ x.state = .running ∧ x.count = 0 := by
  simp [Timer.expiryDue]

theorem nextExpiry_eq_some {s : State} {k : Fin 8} (hk : (s.timer k).expiryDue = true)
    (hlow : ∀ j : Fin 8, j < k → (s.timer j).expiryDue = false) : s.nextExpiry = some k := by
  unfold State.nextExpiry
  rw [← Fin.find?_eq_find?_finRange, Fin.find?_eq_some_iff]
  exact ⟨hk, hlow⟩

theorem nextExpiry_of_settled {s : State} (h : SettledTimers s) : s.nextExpiry = none := by
  unfold State.nextExpiry
  rw [List.find?_eq_none]
  intro k _
  simp [h k]

/-- R119: the expiries under way are all done, each timer's at its place. -/
theorem foldExpire_settles (l : List (Fin 8)) {s : State} {k : Fin 8} (h : k ∈ l ∨ (s.timer k).expiryDue = false) :
    ((l.foldl (fun s t => if (s.timer t).expiryDue then s.expire t else s) s).timer k).expiryDue = false := by
  induction l generalizing s with
  | nil => exact h.resolve_left nofun
  | cons t rest ih =>
    rw [List.foldl_cons]
    refine ih ?_
    by_cases hk : k = t
    · subst hk
      right
      split
      · rw [expire_timer_self]
        exact afterExpiry_settled _
      · next hdue => simpa using hdue
    · refine (h.imp_left (List.mem_of_ne_of_mem hk)).imp_right fun hsettled => ?_
      split
      · rw [expire_timer_other s t k hk]
        exact hsettled
      · exact hsettled

theorem settledTimers_settleTimers (s : State) : SettledTimers s.settleTimers := by
  intro k
  unfold State.settleTimers
  exact foldExpire_settles (List.finRange 8) (.inl (List.mem_finRange k))

theorem handed_settleTimers (s : State) (code : Nat) : s.settleTimers.handed code = s.handed code := by
  have hcmd : s.settleTimers.cmd = s.cmd := by rw [settleTimers_eq]
  unfold State.handed
  rw [hcmd]

/-- R60: an expiry is offered to the queue: it joins the tail, or gives its binder to the standing entry. -/
theorem offerExpiry_joins {l : List Trigger} {t : Fin 8} (h : l.countP (Trigger.isExpiryOf t) = 0)
    (b : Option (Fin 32)) : offerExpiry l t b = l ++ [.expiry t b] := by
  unfold offerExpiry
  rw [if_neg]
  simpa [List.countP_eq_zero] using h

theorem offerExpiry_replaces {l : List Trigger} {t : Fin 8} (h : l.countP (Trigger.isExpiryOf t) ≠ 0)
    (b : Option (Fin 32)) :
    offerExpiry l t b = l.map fun e => if e.isExpiryOf t = true then .expiry t b else e := by
  unfold offerExpiry
  rw [if_pos]
  simpa [List.countP_eq_zero] using h

theorem afterExpiry_eq (x : Timer) :
    x.afterExpiry =
      if x.mode = .periodic ∧ x.reload ≠ 0 then { x with count := x.reload }
      else { x with state := .stopped, count := 0 } := by
  unfold Timer.afterExpiry
  cases hmode : x.mode with
  | oneShot => rfl
  | periodic => by_cases hreload : x.reload = 0 <;> simp [hreload]

/-- R119, R131: a timer command finds the expiries done. -/
theorem exec_settleTimers {s : State} {code : Nat} {words : List Word} (h : s.hands code words) {c : Instr}
    (run : State → List Word → State)
    (hexec : ∀ u : State, u.handed code = some words → exec c u = (run u.settleTimers words).done) :
    exec c s = exec c s.settleTimers := by
  have hhanded := handed_of_hands h
  rw [hexec s hhanded, hexec s.settleTimers (by rw [handed_settleTimers, hhanded]),
    settleTimers_settled _ (settledTimers_settleTimers s)]

/-- Settles O22. -/
theorem expiryRaisesOffersAndReloads : Obligations.ExpiryRaisesOffersAndReloads := by
  refine ⟨expiryDue_iff, fun s k hrun hzero hlow => ⟨s.expire k, ?_, rfl, ?_, rfl, fun hbinder hroute => ?_,
    fun hoffers => ⟨fun hnone => ?_, fun hsome => ?_⟩, rfl, fun j hj => expire_timer_other s k j hj, ?_⟩,
    fun s hsettled => ?_, fun s => ⟨settledTimers_settleTimers s, settleTimers_settled s, fun c hc hcmd => ?_⟩⟩
  · have hnext := nextExpiry_eq_some ((expiryDue_iff _).mpr ⟨hrun, hzero⟩) hlow
    change execTimerExpiry s = _
    simp [execTimerExpiry, hnext, done_eq]
  · exact settleTimers_expire s k ((expiryDue_iff _).mpr ⟨hrun, hzero⟩) hlow
  · have hno : (s.timer k).offers = false := by simp [Timer.offers, hbinder, hroute]
    exact if_neg (by rw [hno]; decide)
  · have hyes : (s.timer k).offers = true := by simpa [Timer.offers, Option.isSome_iff_ne_none] using hoffers
    exact (if_pos hyes).trans (offerExpiry_joins hnone _)
  · have hyes : (s.timer k).offers = true := by simpa [Timer.offers, Option.isSome_iff_ne_none] using hoffers
    exact (if_pos hyes).trans (offerExpiry_replaces hsome _)
  · rw [expire_timer_self, afterExpiry_eq]
  · change execTimerExpiry s = _
    simp [execTimerExpiry, nextExpiry_of_settled hsettled]
  · obtain ⟨words, hwords, hcode⟩ := hcmd
    have settles : ∀ {code : Nat} (run : State → List Word → State), codeOf words = code →
        (∀ u : State, u.handed code = some words → exec c u = (run u.settleTimers words).done) →
        exec c s = exec c s.settleTimers := fun run hcode hexec => exec_settleTimers ⟨hwords, hcode⟩ run hexec
    simp only [List.mem_cons, List.not_mem_nil, or_false] at hc
    obtain rfl | rfl | rfl | rfl | rfl := hc
    · exact settles State.setTimer (by simpa using hcode) fun u hu => by
        change execSetTimer u = _
        simp [execSetTimer, hu]
    · exact settles State.presetTimer (by simpa using hcode) fun u hu => by
        change execPresetTimer u = _
        simp [execPresetTimer, hu]
    · exact settles State.runTimer (by simpa using hcode) fun u hu => by
        change execRunTimer u = _
        simp [execRunTimer, hu]
    · exact settles State.stopTimer (by simpa using hcode) fun u hu => by
        change execStopTimer u = _
        simp [execStopTimer, hu]
    · exact settles State.readTimer (by simpa using hcode) fun u hu => by
        change execReadTimer u = _
        simp [execReadTimer, hu]

end Sys2Proof.Machine
end

section
/-! PROOFS. The bindings of timers (O39), the synchronising read (O25), and RESYNC WATCH and READ WATCH (O27). -/

namespace Sys2Proof.Machine

open Sys2Proof

/-! ### Binding and release (O39) -/

theorem bindTimer_unset {s : State} (hsettled : SettledTimers s) (q : Fin 32) {k : Fin 8}
    (h : (s.timer k).reload = 0) : s.bindTimer q k = s := by
  simp only [State.bindTimer, settleTimers_settled s hsettled, h, if_true]

theorem bindTimer_of_reload {s : State} (hsettled : SettledTimers s) (q : Fin 32) {k : Fin 8}
    (h : (s.timer k).reload ≠ 0) :
    s.bindTimer q k =
      ((s.dropBound (s.timer k).binder q).updTimer k fun x =>
        { x with binder := some q, count := x.reload, state := .running }).updQuest q
        fun c => { c with bound := some k } := by
  simp only [State.bindTimer, settleTimers_settled s hsettled, h, if_false]

theorem dropBound_timer (s : State) (b : Option (Fin 32)) (q : Fin 32) (j : Fin 8) :
    (s.dropBound b q).timer j = s.timer j := by
  unfold State.timer
  rw [dropBound_timers]

theorem dropBound_quest_self (s : State) (b : Option (Fin 32)) (q : Fin 32) : (s.dropBound b q).quest q = s.quest q := by
  unfold State.dropBound
  split
  · rfl
  · split
    · rfl
    · next hne => exact updQuest_other _ _ _ _ (Ne.symm hne)

theorem dropBound_quest_other (s : State) (b : Option (Fin 32)) {q p : Fin 32} (hp : p ≠ q) :
    (s.dropBound b q).quest p = if b = some p then { s.quest p with bound := none } else s.quest p := by
  unfold State.dropBound
  split
  · rfl
  · next r =>
    by_cases hr : r = p
    · rw [if_neg (hr ▸ hp), hr, updQuest_self, if_pos rfl]
    · have hother : some r ≠ some p := fun heq => hr (Option.some.inj heq)
      rw [if_neg hother]
      split
      · rfl
      · exact updQuest_other _ _ _ _ (Ne.symm hr)

theorem updQuest_timer (s : State) (q : Fin 32) (f : Quest → Quest) (j : Fin 8) : (s.updQuest q f).timer j = s.timer j :=
  rfl

theorem release_of_bound {s : State} (hsettled : SettledTimers s) {q : Fin 32} {k : Fin 8}
    (h : (s.quest q).bound = some k) :
    s.release q =
      (s.updTimer k fun x => { x with state := .stopped, binder := none }).updQuest q
        fun c => { c with bound := none } := by
  simp only [State.release, h, settleTimers_settled s hsettled]

/-- Settles O39. -/
theorem bindAndReleaseKeepBothSides : Obligations.BindAndReleaseKeepBothSides := by
  refine ⟨fun s q k hsettled => ⟨bindTimer_unset hsettled q, fun hreload => ?_⟩,
    fun s q hsettled => ⟨release_unbound s q, fun k hbound => ?_⟩⟩
  · rw [bindTimer_of_reload hsettled q hreload]
    refine ⟨?_, ?_, fun p hp => ?_, fun j hj => ?_⟩
    · rw [updQuest_timer, updTimer_self, dropBound_timer]
    · refine (updQuest_self _ _ _).trans ?_
      exact congrArg (fun c : Quest => { c with bound := some k }) (dropBound_quest_self s _ q)
    · exact (updQuest_other _ _ _ _ hp).trans (dropBound_quest_other s _ hp)
    · rw [updQuest_timer, updTimer_other _ _ _ _ hj, dropBound_timer]
  · refine ⟨?_, release_quest_self s q, fun p hp => release_quest_other s q p hp, fun j hj => ?_⟩
    · rw [release_of_bound hsettled hbound, updQuest_timer, updTimer_self]
    · rw [release_of_bound hsettled hbound, updQuest_timer, updTimer_other _ _ _ _ hj]

/-! ### The synchronising read (O25) -/

theorem issueSync_lowest {s : State} {w : Fin 64} (hread : s.syncRead = none) (hreset : s.watchReset = none)
    (hsyncing : (s.watch w).state = .syncing) (hlow : ∀ v : Fin 64, v < w → (s.watch v).state ≠ .syncing) :
    s.issueSync =
      { s with syncRead := some { watch := w, addr := (s.watch w).addr, completed := false, stale := false } } := by
  have hlowest : s.lowestSyncing = some w := by
    unfold State.lowestSyncing
    rw [← Fin.find?_eq_find?_finRange, Fin.find?_eq_some_iff]
    exact ⟨by simp [hsyncing], fun v hv => by simpa using hlow v hv⟩
  simp [State.issueSync, hread, hreset, hlowest]

theorem exec_syncReadComplete_of_granted {s : State} {r : SyncRead} (hr : s.syncRead = some r)
    (hport : s.mpa.port = some (.ir .syncRead)) :
    exec .syncReadComplete s = .next ((s.completeSync r).endIRGrant).react := by
  change execSyncReadComplete s = _
  simp [execSyncReadComplete, hr, hport, done_eq]

theorem exec_syncReadComplete_of_taken {s : State} {r : SyncRead} {word : Word} (hr : s.syncRead = some r)
    (hport : s.mpa.port ≠ some (.ir .syncRead)) (hnext : s.nextFor .watch = some (.syncMark word)) :
    exec .syncReadComplete s = .next (((s.takeFor .watch).takeSync r word).advanceWatchReset).react := by
  change execSyncReadComplete s = _
  simp [execSyncReadComplete, hr, hport, hnext, done_eq]

/-- R16: a completion whose watch no longer waits for it. -/
theorem takeSync_discarded {s : State} {r : SyncRead} (h : r.stale = true ∨ (s.watch r.watch).state ≠ .syncing)
    (word : Word) : s.takeSync r word = State.issueSync { s with syncRead := none } := by
  have hgone : (r.stale || (s.watch r.watch).state != .syncing) = true := by simpa using h
  unfold State.takeSync
  simp only [hgone, if_true]

/-- R16: a completion that its watch takes. -/
theorem takeSync_taken {s : State} {r : SyncRead} (hfresh : r.stale = false)
    (hsyncing : (s.watch r.watch).state = .syncing) (word : Word) :
    s.takeSync r word =
      (if s.armCommandWaits r.watch then
        (State.syncWatch { s with syncRead := none } r.watch word).report .ok []
      else State.syncWatch { s with syncRead := none } r.watch word).issueSync := by
  have hkept : ¬(r.stale || (s.watch r.watch).state != .syncing) = true := by simp [hfresh, hsyncing]
  have hkeeps := watchUnitKeeps_syncWatch { s with syncRead := none } r.watch word
  unfold WatchUnitKeeps at hkeeps
  have hwaits : (State.syncWatch { s with syncRead := none } r.watch word).armCommandWaits r.watch
      = s.armCommandWaits r.watch := by
    unfold State.armCommandWaits
    rw [hkeeps]
  unfold State.takeSync
  simp only [hkept, hwaits]
  rfl

theorem syncWatch_eq (s : State) (w : Fin 64) (word : Word) :
    s.syncWatch w word =
      if (s.watch w).fireOnArm = true ∧ ((s.watch w).synced word).truth = true then
        (s.updWatch w fun x => x.synced word).fireWatch w .part 0 ((s.watch w).synced word).shadow
          ((s.watch w).synced word).shadow
      else s.updWatch w fun x => x.synced word := by
  simp only [State.syncWatch, updWatch_self, Bool.and_eq_true]
  rfl

/-- Settles O25. -/
theorem synchronisingReadArmsTheWatch : Obligations.SynchronisingReadArmsTheWatch := by
  refine ⟨armCommandWaits_iff, fun s r hr hport => exec_syncReadComplete_of_granted hr hport,
    fun s r word hr hport hnext => ⟨fun hgone => ?_, fun hfresh hsyncing field truth u v hfield htruth hu hv => ?_⟩,
    fun s => ⟨issueSync_waits s, issueSync_settled s, fun w hread hreset hsyncing hlow =>
      issueSync_lowest hread hreset hsyncing hlow⟩⟩
  · rw [exec_syncReadComplete_of_taken hr hport hnext, takeSync_discarded (s := s.takeFor .watch) hgone]
  · subst hfield htruth hu
    have hsync : State.syncWatch { s.takeFor .watch with syncRead := none } r.watch word = v := by
      rw [hv, syncWatch_eq]
      rfl
    have hexec := exec_syncReadComplete_of_taken hr hport hnext
    rw [takeSync_taken (s := s.takeFor .watch) hfresh hsyncing, hsync] at hexec
    refine ⟨fun hnowait => ?_, fun hwaits => ?_⟩
    · have hno : (s.takeFor .watch).armCommandWaits r.watch = false := hnowait
      rw [hno] at hexec
      exact hexec
    · have hyes : (s.takeFor .watch).armCommandWaits r.watch = true := hwaits
      rw [hyes] at hexec
      exact hexec

/-! ### RESYNC WATCH and READ WATCH (O27) -/

theorem exec_resyncWatch_of_hands {s : State} {words : List Word} (h : s.hands 0x13 words) :
    exec .resyncWatch s = .next (s.resyncWatch words).react := by
  change execResyncWatch s = _
  simp [execResyncWatch, handed_of_hands h, done_eq]

theorem exec_readWatch_of_hands {s : State} {words : List Word} (h : s.hands 0x14 words) :
    exec .readWatch s = .next (s.readWatch words).react := by
  change execReadWatch s = _
  simp [execReadWatch, handed_of_hands h, done_eq]

/-- Word 0 of READ WATCH's result (12.4). -/
def Watch.stateWord (x : Watch) : Word :=
  BitVec.ofNat 32
    (fieldAt 0 2 x.state.code + fieldAt 8 4 x.condition.code + fieldAt 16 3 x.filter.code + flagAt 20 x.notify
      + flagAt 21 x.fireOnArm + flagAt 24 x.truth + flagAt 25 x.missed)

theorem Watch.words_eq (x : Watch) :
    x.words =
      [x.stateWord, BitVec.ofNat 32 x.addr, BitVec.ofNat 32 (x.lowBit % 256 + 256 * (x.width % 256)), x.operand,
        x.shadow] := by
  have hfields : fieldAt 0 8 x.lowBit + fieldAt 8 8 x.width = x.lowBit % 256 + 256 * (x.width % 256) := by
    simp only [fieldAt]
    omega
  unfold Watch.words Watch.stateWord
  rw [hfields]

theorem WatchState.code_lt (st : WatchState) : st.code < 2 ^ 2 := by cases st <;> decide

theorem Condition.code_lt (c : Condition) : c.code < 2 ^ 4 := by cases c <;> decide

theorem WriterFilter.code_eq (f : WriterFilter) : f.code = f.proc.toNat + 2 * f.scan.toNat + 4 * f.effect.toNat := by
  simp only [WriterFilter.code, flagAt_eq_fieldAt, fieldAt]
  have hproc := f.proc.toNat_lt
  have hscan := f.scan.toNat_lt
  have heffect := f.effect.toNat_lt
  omega

theorem Watch.stateWord_codes (x : Watch) :
    bits x.stateWord 0 2 = x.state.code ∧ bits x.stateWord 8 4 = x.condition.code := by
  have hstate := x.state.code_lt
  have hcondition := x.condition.code_lt
  refine ⟨?_, ?_⟩
  all_goals
    rw [Watch.stateWord, bits_ofNat _ (by decide)]
    simp only [flagAt_eq_fieldAt, fieldAt]
    omega

theorem Watch.stateWord_flags (x : Watch) :
    bits x.stateWord 16 1 = x.filter.proc.toNat ∧ bits x.stateWord 17 1 = x.filter.scan.toNat
      ∧ bits x.stateWord 18 1 = x.filter.effect.toNat ∧ bits x.stateWord 20 1 = x.notify.toNat
      ∧ bits x.stateWord 21 1 = x.fireOnArm.toNat ∧ bits x.stateWord 24 1 = x.truth.toNat
      ∧ bits x.stateWord 25 1 = x.missed.toNat := by
  have hproc := x.filter.proc.toNat_lt
  have hscan := x.filter.scan.toNat_lt
  have heffect := x.filter.effect.toNat_lt
  have hnotify := x.notify.toNat_lt
  have hfire := x.fireOnArm.toNat_lt
  have htruth := x.truth.toNat_lt
  have hmissed := x.missed.toNat_lt
  refine ⟨?_, ?_, ?_, ?_, ?_, ?_, ?_⟩
  all_goals
    rw [Watch.stateWord, bits_ofNat _ (by decide), WriterFilter.code_eq]
    simp only [flagAt_eq_fieldAt, fieldAt]
    omega

theorem Watch.stateWord_elsewhere (x : Watch) :
    bits x.stateWord 2 6 = 0 ∧ bits x.stateWord 12 4 = 0 ∧ bits x.stateWord 19 1 = 0 ∧ bits x.stateWord 22 2 = 0
      ∧ bits x.stateWord 26 6 = 0 := by
  refine ⟨?_, ?_, ?_, ?_, ?_⟩
  all_goals
    rw [Watch.stateWord, bits_ofNat _ (by decide)]
    simp only [flagAt_eq_fieldAt, fieldAt]
    omega

theorem bit_of_bits {w : Word} {n : Nat} {b : Bool} (h : bits w n 1 = b.toNat) : bit w n = b := by
  unfold bit
  rw [h]
  cases b <;> rfl

theorem resyncWatch_outOfRange {s : State} {words : List Word} (h : 63 < bits (wordAt words 2) 0 8) :
    s.resyncWatch words = s.report .outOfRange [] := by
  simp [State.resyncWatch, watchNumber_eq_none h]

theorem resyncWatch_of_number (s : State) {words : List Word} {w : Fin 64} (h : bits (wordAt words 2) 0 8 = w.val) :
    s.resyncWatch words =
      match (s.watch w).state with
      | .free => s.report .notDefined []
      | .syncing => s.report .busy []
      | .armed => ((s.updWatch w (fun x => { x with state := .syncing })).takeCommand).issueSync := by
  simp only [State.resyncWatch, h, watchNumber_val] <;> rfl

theorem readWatch_outOfRange {s : State} {words : List Word} (h : 63 < bits (wordAt words 2) 0 8) :
    s.readWatch words = s.report .outOfRange [] := by
  simp [State.readWatch, watchNumber_eq_none h]

theorem readWatch_of_number (s : State) {words : List Word} {w : Fin 64} (h : bits (wordAt words 2) 0 8 = w.val) :
    s.readWatch words = (s.updWatch w (fun x => { x with missed := false })).report .ok (s.watch w).words := by
  simp only [State.readWatch, h, watchNumber_val]

/-- Settles O27. -/
theorem resyncAndReadWatch : Obligations.ResyncAndReadWatch := by
  refine ⟨rfl, rfl, rfl, fun s words hands => ?resync, fun s words hands => ?read⟩
  case resync =>
    rw [exec_resyncWatch_of_hands hands]
    refine ⟨fun hnum => by rw [resyncWatch_outOfRange hnum]; rfl, fun w hw => ?_⟩
    rw [resyncWatch_of_number s hw]
    refine ⟨fun hfree => by rw [hfree]; rfl, fun hsyncing => by rw [hsyncing]; rfl, fun harmed => ?_⟩
    rw [harmed]
    exact congrArg (fun v : State => Host.Outcome.next v.issueSync.react) (takeCommand_of_dispatched hands.1)
  case read =>
    rw [exec_readWatch_of_hands hands]
    refine ⟨fun hnum => by rw [readWatch_outOfRange hnum]; rfl, fun w hw => ?_⟩
    obtain ⟨hstate, hcondition⟩ := (s.watch w).stateWord_codes
    obtain ⟨hproc, hscan, heffect, hnotify, hfire, htruth, hmissed⟩ := (s.watch w).stateWord_flags
    refine ⟨(s.watch w).stateWord, ?_, hstate, hcondition, bit_of_bits hproc, bit_of_bits hscan, bit_of_bits heffect,
      bit_of_bits hnotify, bit_of_bits hfire, bit_of_bits htruth, bit_of_bits hmissed, (s.watch w).stateWord_elsewhere⟩
    rw [readWatch_of_number s hw, Watch.words_eq]
    rfl

end Sys2Proof.Machine
end

section
/-! PROOFS. DEFINE STEPS and DEFINE EFFECTS (O29), and the fields of their records (O30). -/

namespace Sys2Proof.Machine

open Sys2Proof

/-! ### The fields of a record that may hold none -/

theorem watchRefOf_eq_none_iff (n : Nat) : watchRefOf n = none ↔ 64 ≤ n ∧ n ≠ 0xFF := by
  unfold watchRefOf
  split
  · simp
    omega
  · split <;> simp <;> omega

theorem questRefOf_eq_none_iff (n : Nat) : questRefOf n = none ↔ 32 ≤ n ∧ n ≠ 0xFF := by
  unfold questRefOf
  split
  · simp
    omega
  · split <;> simp <;> omega

theorem timerRefOf_eq_none_iff (n : Nat) : timerRefOf n = none ↔ 8 ≤ n ∧ n ≠ 0xF := by
  unfold timerRefOf
  split
  · simp
    omega
  · split <;> simp <;> omega

theorem watchRefOf_val (w : Fin 64) : watchRefOf w.val = some (some w) := by
  simp [watchRefOf]

theorem questRefOf_val (q : Fin 32) : questRefOf q.val = some (some q) := by
  simp [questRefOf]

theorem timerRefOf_val (t : Fin 8) : timerRefOf t.val = some (some t) := by
  simp [timerRefOf]

/-- A reference that is in range holds none exactly when its field is all ones. -/
theorem isNone_of_watchRefOf {n : Nat} {r : Option (Fin 64)} (h : watchRefOf n = some r) :
    r.isNone = decide (n = 0xFF) := by
  unfold watchRefOf at h
  split at h
  · cases h
    simp
    omega
  · split at h
    · next hall =>
      cases h
      simp [hall]
    · cases h

theorem actionOfCode_eq_getElem? (n : Nat) : actionOfCode n = ([.fail, .skip, .note] : List TimeoutAction)[n]? := by
  match n with
  | 0 | 1 | 2 => rfl
  | _ + 3 => rfl

theorem kindOfCode_eq_getElem? (n : Nat) :
    kindOfCode n =
      ([.setBit, .clearBit, .flipBit, .writeField, .addField, .writeIf, .copyShadow] : List EffectKind)[n]? := by
  match n with
  | 0 | 1 | 2 | 3 | 4 | 5 | 6 => rfl
  | _ + 7 => rfl

theorem actionOfCode_eq_none_iff (n : Nat) : actionOfCode n = none ↔ 2 < n := by
  rw [actionOfCode_eq_getElem?, List.getElem?_eq_none_iff]
  exact Nat.lt_iff_add_one_le.symm

theorem kindOfCode_eq_none_iff (n : Nat) : kindOfCode n = none ↔ 6 < n := by
  rw [kindOfCode_eq_getElem?, List.getElem?_eq_none_iff]
  exact Nat.lt_iff_add_one_le.symm

/-- The codes of the bit kinds, and those of the kinds with a watch reference (12.3). -/
theorem kindOfCode_classes {n : Nat} {kind : EffectKind} (h : kindOfCode n = some kind) :
    (kind.isBitKind = decide (n ≤ 2)) ∧ (kind.usesWatch = decide (5 ≤ n)) := by
  unfold kindOfCode at h
  split at h <;> cases h <;> exact ⟨rfl, rfl⟩

/-! ### The status of the first check that fails -/

/-- The status of the first check that fails. -/
def firstFault (checks : List (Bool × Status)) : Option Status := (checks.find? Prod.fst).map Prod.snd

theorem firstFault_nil : firstFault [] = none := rfl

theorem firstFault_cons (p : Prop) [Decidable p] (st : Status) (checks : List (Bool × Status)) :
    firstFault ((decide p, st) :: checks) = if p then some st else firstFault checks := by
  by_cases h : p <;> simp [firstFault, h]

/-- The status with which a parse refuses its words. -/
def refusalOf {α : Type} : Except Status α → Option Status
  | .error st => some st
  | .ok _ => none

theorem eq_error_iff {α : Type} (r : Except Status α) (st : Status) : r = .error st ↔ refusalOf r = some st := by
  cases r <;> simp [refusalOf]

/-- R42 check 2. -/
theorem refusalOf_parseStep (a b c : Word) :
    refusalOf (parseStep a b c) =
      firstFault
        [ (decide (64 ≤ bits a 0 8 ∧ bits a 0 8 ≠ 0xFF), .outOfRange),
          (decide (64 ≤ bits a 8 8 ∧ bits a 8 8 ≠ 0xFF), .outOfRange),
          (decide (bits a 8 8 ≠ 0xFF ∧ bits a 0 8 = 0xFF), .badField),
          (decide (8 ≤ bits a 16 4 ∧ bits a 16 4 ≠ 0xF), .outOfRange),
          (decide (2 < bits b 16 2), .badField),
          (decide (95 < bits b 0 8), .outOfRange),
          (decide (4 < bits b 8 8), .badField),
          (decide (96 < bits b 0 8 + bits b 8 8), .outOfRange),
          (decide (32 ≤ bits c 0 8 ∧ bits c 0 8 ≠ 0xFF), .outOfRange) ] := by
  simp only [firstFault_cons, firstFault_nil, ← watchRefOf_eq_none_iff, ← timerRefOf_eq_none_iff,
    ← questRefOf_eq_none_iff, ← actionOfCode_eq_none_iff]
  unfold parseStep
  cases htrigger : watchRefOf (bits a 0 8) with
  | none => rfl
  | some trigger =>
  cases hguard : watchRefOf (bits a 8 8) with
  | none => rfl
  | some guard =>
  have hboth : (guard.isSome && trigger.isNone) = decide (bits a 8 8 ≠ 0xFF ∧ bits a 0 8 = 0xFF) := by
    rw [← Option.not_isNone, isNone_of_watchRefOf htrigger, isNone_of_watchRefOf hguard]
    simp
  simp only [hboth, decide_eq_true_eq, reduceCtorEq, if_false]
  split
  · rfl
  cases htimer : timerRefOf (bits a 16 4) with
  | none => rfl
  | some timer =>
  cases haction : actionOfCode (bits b 16 2) with
  | none => rfl
  | some action =>
  simp only [reduceCtorEq, if_false]
  split
  · rfl
  split
  · rfl
  split
  · rfl
  cases questRefOf (bits c 0 8) with
  | none => rfl
  | some call => rfl

theorem refusalOf_parseReference (kind : EffectKind) (n : Nat) :
    refusalOf (parseReference kind n) =
      if kind.usesWatch = true ∧ 64 ≤ n ∧ n ≠ 0xFF then some .outOfRange
      else if kind.usesWatch = true ∧ n = 0xFF then some .badField else none := by
  unfold parseReference
  by_cases huses : kind.usesWatch = true
  · simp only [huses, if_true, true_and, ← watchRefOf_eq_none_iff]
    cases href : watchRefOf n with
    | none => rfl
    | some r =>
      have hnone := isNone_of_watchRefOf href
      cases r with
      | none =>
        have hall : n = 0xFF := by simpa using hnone
        simp only [hall]
        rfl
      | some w =>
        have hother : n ≠ 0xFF := by simpa using hnone
        simp only [hother]
        rfl
  · simp only [huses]
    rfl

/-- R95, R111 check 2. -/
theorem refusalOf_parseEffect (a b c : Word) :
    refusalOf (parseEffect a b c) =
      firstFault
        [ (decide (6 < bits a 0 8), .badField),
          (decide (bits a 0 8 ≤ 2 ∧ (b.toNat % 4 ≠ 0 ∨ 4095 < bits a 8 16)), .badField),
          (decide (3 ≤ bits a 0 8 ∧ (b.toNat % 4 ≠ 0 ∨ bits a 16 8 = 0 ∨ 32 < bits a 16 8 ∨ 31 < bits a 8 8
            ∨ 32 < bits a 8 8 + bits a 16 8)), .badField),
          (decide (5 ≤ bits a 0 8 ∧ 64 ≤ bits a 24 8 ∧ bits a 24 8 ≠ 0xFF), .outOfRange),
          (decide (5 ≤ bits a 0 8 ∧ bits a 24 8 = 0xFF), .badField) ] := by
  simp only [firstFault_cons, firstFault_nil, ← kindOfCode_eq_none_iff]
  unfold parseEffect
  cases hkind : kindOfCode (bits a 0 8) with
  | none => rfl
  | some kind =>
  obtain ⟨hbit, huses⟩ := kindOfCode_classes hkind
  simp only [hbit, decide_eq_true_eq, reduceCtorEq, if_false]
  by_cases hsmall : bits a 0 8 ≤ 2
  · have hthree : ¬3 ≤ bits a 0 8 := by omega
    have hfive : ¬5 ≤ bits a 0 8 := by omega
    simp only [hsmall, hthree, hfive, if_true, true_and, false_and, if_false]
    split <;> rfl
  · have hthree : 3 ≤ bits a 0 8 := by omega
    simp only [hsmall, hthree, if_false, true_and, false_and]
    split
    · rfl
    · have href := refusalOf_parseReference kind (bits a 24 8)
      simp only [huses, decide_eq_true_eq] at href
      rw [← href]
      cases parseReference kind (bits a 24 8) with
      | error st => rfl
      | ok r => rfl

/-! ### The records of a command -/

section
variable {α : Type} {parse : Word → Word → Word → Except Status α} {words : List Word}

theorem parseRecords_eq_error_iff (st : Status) (n i : Nat) :
    parseRecords parse words i n = .error st ↔
      ∃ k, k < n
        ∧ parse (recordWord words (i + k) 0) (recordWord words (i + k) 1) (recordWord words (i + k) 2) = .error st
        ∧ ∀ j, j < k → ∃ r,
            parse (recordWord words (i + j) 0) (recordWord words (i + j) 1) (recordWord words (i + j) 2) = .ok r := by
  induction n generalizing i with
  | zero => simp [parseRecords]
  | succ n ih =>
    have hnext (k : Nat) : i + 1 + k = i + (k + 1) := by omega
    rw [Nat.exists_lt_succ_left]
    simp only [Nat.add_zero, Nat.not_lt_zero, false_implies, implies_true, and_true, Nat.forall_lt_succ_left]
    unfold parseRecords
    cases hfirst : parse (recordWord words i 0) (recordWord words i 1) (recordWord words i 2) with
    | error st' => simp
    | ok r =>
      have hrest := ih (i + 1)
      simp only [hnext] at hrest
      simp only [reduceCtorEq, false_or, Except.ok.injEq, exists_eq', true_and]
      rw [← hrest]
      cases parseRecords parse words (i + 1) n <;> simp

theorem parseRecords_eq_ok (recs : List α) (i : Nat)
    (h : ∀ k, (hk : k < recs.length) →
      parse (recordWord words (i + k) 0) (recordWord words (i + k) 1) (recordWord words (i + k) 2) = .ok recs[k]) :
    parseRecords parse words i recs.length = .ok recs := by
  induction recs generalizing i with
  | nil => rfl
  | cons r rest ih =>
    have hfirst := h 0 (Nat.succ_pos _)
    have hrest := ih (i + 1) fun k hk => by
      have hk' := h (k + 1) (Nat.succ_lt_succ hk)
      rwa [show i + (k + 1) = i + 1 + k by omega] at hk'
    rw [Nat.add_zero] at hfirst
    simp only [List.length_cons, parseRecords, hfirst, hrest]
    rfl

end

theorem writeRecords_within {α : Type} {n : Nat} (recs : List α) {first : Nat} {table : Vector α n} {i : Nat}
    (hi : i < recs.length) (hn : first + i < n) : (writeRecords table first recs)[first + i] = recs[i] := by
  induction recs generalizing first table i with
  | nil => exact absurd hi (Nat.not_lt_zero _)
  | cons r rest ih =>
    unfold writeRecords
    cases i with
    | zero =>
      rw [writeRecords_apart rest hn (Or.inl (by omega))]
      exact Vector.getElem_setIfInBounds_self _
    | succ i =>
      have hindex : first + (i + 1) = first + 1 + i := by omega
      simp only [hindex]
      exact ih (Nat.lt_of_succ_lt_succ hi) _

/-- Settles O30. -/
theorem recordsParseByTheirFields : Obligations.RecordsParseByTheirFields := by
  refine ⟨actionOfCode_eq_getElem?, kindOfCode_eq_getElem?, ?kinds, ⟨watchRefOf_val, rfl, fun n hn hall =>
    (watchRefOf_eq_none_iff n).mpr ⟨hn, hall⟩⟩, ⟨questRefOf_val, rfl, fun n hn hall =>
    (questRefOf_eq_none_iff n).mpr ⟨hn, hall⟩⟩, ⟨timerRefOf_val, rfl, fun n hn hall =>
    (timerRefOf_eq_none_iff n).mpr ⟨hn, hall⟩⟩, ?step, ?effect, ?steps, ?effects, ?stepRead, ?bitRead, ?fieldRead⟩
  case kinds => exact fun kind => by cases kind <;> decide
  case step => exact fun a b c st => by rw [eq_error_iff, refusalOf_parseStep]; rfl
  case effect => exact fun a b c st => by rw [eq_error_iff, refusalOf_parseEffect]; rfl
  case steps => exact fun words count st => by simpa [recordWord] using parseRecords_eq_error_iff st count 0
  case effects => exact fun words count st => by simpa [recordWord] using parseRecords_eq_error_iff st count 0
  case stepRead =>
    intro a b c trigger guard timer action call htrigger hguard htimer haction hcall hboth hcount hfirst hlast
    have hpair : (guard.isSome && trigger.isNone) = false := by
      cases guard with
      | none => rfl
      | some g =>
        rw [Option.isNone_eq_false_iff.mpr (Option.ne_none_iff_isSome.mp (hboth (Option.some_ne_none g)))]
        rfl
    simp only [parseStep, htrigger, hguard, htimer, haction, hcall, hpair]
    simp [Nat.not_lt.mpr hcount, Nat.not_lt.mpr hfirst, Nat.not_lt.mpr hlast]
  case bitRead =>
    intro a b c kind hkind hbit halign hindex
    simp [parseEffect, hkind, hbit, halign, Nat.not_lt.mpr hindex, bitStringAddr, bitStringLow]
  case fieldRead =>
    intro a b c kind ref hkind hbit halign hpos hfit huses hnone
    have hreference : parseReference kind (bits a 24 8) = .ok ref := by
      unfold parseReference
      cases hclass : kind.usesWatch with
      | false => rw [hnone hclass]; rfl
      | true =>
        obtain ⟨href, hsome⟩ := huses hclass
        obtain ⟨w, rfl⟩ := Option.ne_none_iff_exists'.mp hsome
        rw [href]
        rfl
    have hchecks : ¬(b.toNat % 4 ≠ 0 ∨ bits a 16 8 = 0 ∨ 32 < bits a 16 8 ∨ 31 < bits a 8 8
        ∨ 32 < bits a 8 8 + bits a 16 8) := by omega
    simp only [parseEffect, hkind, hbit, hreference, if_neg hchecks]
    rfl

/-! ### DEFINE STEPS and DEFINE EFFECTS (O29) -/

theorem exec_defineSteps_of_handsEngine {s : State} {words : List Word} (h : s.handsEngine 0x20 words) :
    exec .defineSteps s = .next (s.defineSteps words).react := by
  change execDefineSteps s = _
  simp [execDefineSteps, engineHanded_of_handsEngine h, done_eq]

theorem exec_defineEffects_of_handsEngine {s : State} {words : List Word} (h : s.handsEngine 0x21 words) :
    exec .defineEffects s = .next (s.defineEffects words).react := by
  change execDefineEffects s = _
  simp [execDefineEffects, engineHanded_of_handsEngine h, done_eq]

theorem stepInUse_iff (s : State) (n : Nat) :
    s.stepInUse n = true ↔
      ∃ q : Fin 32, (s.quest q).state.running = true ∧ (s.quest q).firstStep ≤ n
        ∧ n < (s.quest q).firstStep + (s.quest q).stepCount := by
  simp [State.stepInUse, and_assoc]

theorem effectInUse_iff (s : State) (n : Nat) :
    s.effectInUse n = true ↔
      ∃ q : Fin 32, (s.quest q).state.running = true ∧ ∃ i, i < (s.quest q).stepCount
        ∧ (s.questStep q i).firstEffect ≤ n ∧ n < (s.questStep q i).firstEffect + (s.questStep q i).effectCount := by
  simp only [State.effectInUse, List.any_eq_true, mem_runningSteps_iff, Bool.and_eq_true, decide_eq_true_eq]
  constructor
  · rintro ⟨_, ⟨q, hrun, i, hi, rfl⟩, hrange⟩
    exact ⟨q, hrun, i, hi, hrange⟩
  · rintro ⟨q, hrun, i, hi, hrange⟩
    exact ⟨_, ⟨q, hrun, i, hi, rfl⟩, hrange⟩

/-- A property of some record of a range, by its offset and by its index. -/
theorem any_range_offset_iff (P : Nat → Bool) (first count : Nat) :
    (List.range count).any (fun i => P (first + i)) = true ↔ ∃ n, first ≤ n ∧ n < first + count ∧ P n = true := by
  simp only [List.any_eq_true, List.mem_range]
  constructor
  · rintro ⟨i, hi, hP⟩
    exact ⟨first + i, Nat.le_add_right _ _, by omega, hP⟩
  · rintro ⟨n, hlow, hhigh, hP⟩
    exact ⟨n - first, by omega, by rwa [show first + (n - first) = n by omega]⟩

theorem defineSteps_outOfRange {s : State} {words : List Word} (h : 128 < firstIndexOf words + recordCountOf words) :
    s.defineSteps words = s.report .outOfRange [] := by
  simp only [State.defineSteps, if_pos h]

theorem defineSteps_refused {s : State} {words : List Word} {st : Status}
    (hfit : firstIndexOf words + recordCountOf words ≤ 128)
    (h : parseRecords parseStep words 0 (recordCountOf words) = .error st) : s.defineSteps words = s.report st [] := by
  simp only [State.defineSteps, if_neg (Nat.not_lt.mpr hfit), h]

theorem defineSteps_parsed {s : State} {words : List Word} {recs : List StepRec}
    (hfit : firstIndexOf words + recordCountOf words ≤ 128)
    (h : parseRecords parseStep words 0 (recordCountOf words) = .ok recs) :
    s.defineSteps words =
      if (List.range (recordCountOf words)).any (fun i => s.stepInUse (firstIndexOf words + i)) then
        s.report .inUse []
      else State.report { s with steps := writeRecords s.steps (firstIndexOf words) recs } .ok [] := by
  simp only [State.defineSteps, if_neg (Nat.not_lt.mpr hfit), h]

theorem defineEffects_outOfRange {s : State} {words : List Word} (h : 96 < firstIndexOf words + recordCountOf words) :
    s.defineEffects words = s.report .outOfRange [] := by
  simp only [State.defineEffects, if_pos h]

theorem defineEffects_refused {s : State} {words : List Word} {st : Status}
    (hfit : firstIndexOf words + recordCountOf words ≤ 96)
    (h : parseRecords parseEffect words 0 (recordCountOf words) = .error st) :
    s.defineEffects words = s.report st [] := by
  simp only [State.defineEffects, if_neg (Nat.not_lt.mpr hfit), h]

theorem defineEffects_parsed {s : State} {words : List Word} {recs : List EffectRec}
    (hfit : firstIndexOf words + recordCountOf words ≤ 96)
    (h : parseRecords parseEffect words 0 (recordCountOf words) = .ok recs) :
    s.defineEffects words =
      if (List.range (recordCountOf words)).any (fun i => s.effectInUse (firstIndexOf words + i)) then
        s.report .inUse []
      else State.report { s with effects := writeRecords s.effects (firstIndexOf words) recs } .ok [] := by
  simp only [State.defineEffects, if_neg (Nat.not_lt.mpr hfit), h]

theorem stepRec_writeRecords_within (s : State) {recs : List StepRec} {first i : Nat} (hi : i < recs.length)
    (hfit : first + recs.length ≤ 128) :
    State.stepRec { s with steps := writeRecords s.steps first recs } (first + i) = recs[i] := by
  have hin : first + i < 128 := by omega
  exact (dif_pos hin).trans (writeRecords_within recs hi hin)

theorem stepRec_writeRecords_apart (s : State) {recs : List StepRec} {first n : Nat}
    (h : n < first ∨ first + recs.length ≤ n) :
    State.stepRec { s with steps := writeRecords s.steps first recs } n = s.stepRec n := by
  unfold State.stepRec
  split
  · next hn => exact writeRecords_apart recs hn h
  · rfl

theorem effectRec_writeRecords_within (s : State) {recs : List EffectRec} {first i : Nat} (hi : i < recs.length)
    (hfit : first + recs.length ≤ 96) :
    State.effectRec { s with effects := writeRecords s.effects first recs } (first + i) = recs[i] := by
  have hin : first + i < 96 := by omega
  exact (dif_pos hin).trans (writeRecords_within recs hi hin)

theorem effectRec_writeRecords_apart (s : State) {recs : List EffectRec} {first n : Nat}
    (h : n < first ∨ first + recs.length ≤ n) :
    State.effectRec { s with effects := writeRecords s.effects first recs } n = s.effectRec n := by
  unfold State.effectRec
  split
  · next hn => exact writeRecords_apart recs hn h
  · rfl

/-- Settles O29. -/
theorem defineCommandsWriteTheirRecords : Obligations.DefineCommandsWriteTheirRecords := by
  refine ⟨fun s words first count hands hfirst hcount => ?steps, fun s words first count hands hfirst hcount => ?effects⟩
  case steps =>
    obtain rfl : first = firstIndexOf words := hfirst
    obtain rfl : count = recordCountOf words := hcount
    rw [exec_defineSteps_of_handsEngine hands]
    refine ⟨fun hout => by rw [defineSteps_outOfRange hout]; rfl,
      fun hfit => ⟨fun st hst => ?_, fun recs hlength hrecs => ?_⟩⟩
    · rw [defineSteps_refused hfit hst]
      rfl
    · have hparse := parseRecords_eq_ok (parse := parseStep) (words := words) recs 0 fun k hk => by
        simpa [recordWord] using hrecs k hk
      rw [hlength] at hparse
      rw [defineSteps_parsed hfit hparse]
      refine ⟨fun ⟨q, hrun, n, hlow, hhigh, huse⟩ => ?_, fun hfree => ?_⟩
      · rw [if_pos ((any_range_offset_iff _ _ _).mpr ⟨n, hlow, hhigh, (stepInUse_iff s n).mpr ⟨q, hrun, huse⟩⟩)]
        rfl
      · have hnone : ¬(List.range (recordCountOf words)).any (fun i => s.stepInUse (firstIndexOf words + i)) = true := by
          intro hany
          obtain ⟨n, hlow, hhigh, huse⟩ := (any_range_offset_iff _ _ _).mp hany
          obtain ⟨q, hrun, hrange⟩ := (stepInUse_iff s n).mp huse
          exact hfree q hrun n hlow hhigh hrange
        rw [if_neg hnone]
        refine ⟨_, rfl, rfl, fun i hi => ?_, fun n hn => ?_⟩
        · exact stepRec_writeRecords_within s hi (hlength ▸ hfit)
        · exact stepRec_writeRecords_apart s (hlength ▸ hn)
  case effects =>
    obtain rfl : first = firstIndexOf words := hfirst
    obtain rfl : count = recordCountOf words := hcount
    rw [exec_defineEffects_of_handsEngine hands]
    refine ⟨fun hout => by rw [defineEffects_outOfRange hout]; rfl,
      fun hfit => ⟨fun st hst => ?_, fun recs hlength hrecs => ?_⟩⟩
    · rw [defineEffects_refused hfit hst]
      rfl
    · have hparse := parseRecords_eq_ok (parse := parseEffect) (words := words) recs 0 fun k hk => by
        simpa [recordWord] using hrecs k hk
      rw [hlength] at hparse
      rw [defineEffects_parsed hfit hparse]
      refine ⟨fun ⟨q, hrun, i, hi, n, hlow, hhigh, huse⟩ => ?_, fun hfree => ?_⟩
      · rw [if_pos ((any_range_offset_iff _ _ _).mpr ⟨n, hlow, hhigh, (effectInUse_iff s n).mpr ⟨q, hrun, i, hi, huse⟩⟩)]
        rfl
      · have hnone : ¬(List.range (recordCountOf words)).any (fun i => s.effectInUse (firstIndexOf words + i)) = true := by
          intro hany
          obtain ⟨n, hlow, hhigh, huse⟩ := (any_range_offset_iff _ _ _).mp hany
          obtain ⟨q, hrun, i, hi, hrange⟩ := (effectInUse_iff s n).mp huse
          exact hfree q hrun i hi n hlow hhigh hrange
        rw [if_neg hnone]
        refine ⟨_, rfl, rfl, fun i hi => ?_, fun n hn => ?_⟩
        · exact effectRec_writeRecords_within s hi (hlength ▸ hfit)
        · exact effectRec_writeRecords_apart s (hlength ▸ hn)

end Sys2Proof.Machine
end

section
/-! PROOFS. An effect's grant and its settling (O41, O42), and the frame of the engine's steps (O38). -/

namespace Sys2Proof.Machine

open Sys2Proof

/-! ### An effect's grant (O41) -/

theorem exec_effectGrant_permitted {s : State} {j : EffectJob} (hport : s.mpa.port = some (.ir .effectRmw))
    (hunit : s.effectUnit = .grantWait j) (hok : s.permitsEffect j.record.addr = true) :
    exec .effectGrant s = .next (s.endIRGrant.grantEffect j).react := by
  change execEffectGrant s = _
  simp [execEffectGrant, hport, hunit, hok, done_eq]

theorem exec_effectGrant_denied {s : State} {j : EffectJob} (hport : s.mpa.port = some (.ir .effectRmw))
    (hunit : s.effectUnit = .grantWait j) (hno : s.permitsEffect j.record.addr = false) :
    exec .effectGrant s = .next (s.endIRGrant.denyEffect j).react := by
  change execEffectGrant s = _
  simp [execEffectGrant, hport, hunit, hno, done_eq]

/-- R34, R106: the engine takes the outcome it waits for, and goes on with the next effect of the step. -/
theorem effectReported_of_awaiting {s : State} {w : WorkItem} {q : Fin 32} {i : Nat} {outs : List EffectResult}
    (hwork : s.work = some w) (htask : w.task = .awaiting q i outs) (r : EffectResult) :
    s.effectReported r =
      State.runEngine { s with work := some { w with task := .effects q (i + 1) (outs ++ [r]) } } := by
  unfold State.effectReported
  simp only [hwork, htask]
  rfl

/-- Settles O41. -/
theorem effectGrantTransfersOrDenies : Obligations.EffectGrantTransfersOrDenies := by
  refine fun s j hport hunit => ⟨fun hok => exec_effectGrant_permitted hport hunit hok,
    fun hno w q i outs hwork htask => ?_⟩
  have hkeeps := keeps_denyEffect s.endIRGrant j
  refine ⟨s.endIRGrant.denyEffect j, exec_effectGrant_denied hport hunit hno, ?_, ?_, ?_, ?_, ?_⟩
  · exact effectReported_of_awaiting
      (s := { s.endIRGrant.recordFault .effect .write j.record.addr with effectUnit := .idle }) hwork htask _
  · exact hkeeps.mem_eq
  · exact hkeeps.stream_eq
  · exact hkeeps.watches_eq
  · exact hkeeps.fault_eq

/-! ### An effect settles (O42) -/

theorem effectStanding_iff (s : State) :
    s.effectStanding = true ↔ ∃ it ∈ s.stream, ∃ e, it.body = .write e ∧ e.writer = .effect := by
  unfold State.effectStanding
  rw [List.any_eq_true]
  refine exists_congr fun it => and_congr_right fun _ => ?_
  cases it.body <;> simp

theorem exec_effectSettled_standing {s : State} {old new : Word} (hunit : s.effectUnit = .settling old new)
    (hstand : s.effectStanding = true) : exec .effectSettled s = .next s := by
  change execEffectSettled s = _
  simp [execEffectSettled, hunit, hstand]

theorem exec_effectSettled_taken {s : State} {old new : Word} (hunit : s.effectUnit = .settling old new)
    (htaken : s.effectStanding = false) (hsettled : SettledTimers s) :
    exec .effectSettled s =
      .next (State.effectReported { s with effectUnit := .idle } { status := .done, old := old, new := new }).react := by
  change execEffectSettled s = _
  simp [execEffectSettled, hunit, htaken, settleTimers_settled s hsettled, done_eq]

/-- Settles O42. -/
theorem effectSettlesWhenItsWriteIsTaken : Obligations.EffectSettlesWhenItsWriteIsTaken := by
  refine fun s old new hunit => ⟨fun hstand => exec_effectSettled_standing hunit ((effectStanding_iff s).mpr hstand),
    fun hnone hsettled w q i outs hwork htask => ?_⟩
  have htaken : s.effectStanding = false := by
    rw [← Bool.not_eq_true, effectStanding_iff]
    rintro ⟨it, hit, e, hbody, hwriter⟩
    exact hnone it hit e hbody hwriter
  rw [exec_effectSettled_taken hunit htaken hsettled]
  exact congrArg (fun v : State => Host.Outcome.next v.react)
    (effectReported_of_awaiting (s := { s with effectUnit := .idle }) hwork htask _)

/-! ### The frame of the engine's steps (O38) -/

theorem engineHanded_of_work {s : State} (h : s.work ≠ none) (code : Nat) : s.engineHanded code = none := by
  simp [State.engineHanded, Option.isSome_iff_ne_none.mpr h]

/-- What the engine's operations keep, the reaction that follows the step keeps with them. -/
theorem EngineKeeps.react_eq {s u : State} (h : EngineKeeps s u) :
    u.react =
      { s with
        quests := u.react.quests, timers := u.react.timers, queue := u.react.queue, cause := u.react.cause
        beatOut := u.react.beatOut, notice := u.react.notice, work := u.react.work
        effectUnit := u.react.effectUnit, cmd := u.react.cmd, mpa := u.react.mpa } := by
  have hreact : u.react = { u with cause := u.react.cause, mpa := u.react.mpa } := by
    unfold State.react
    rw [arbitrate_eq, beginPublication_eq]
  rw [hreact, h.eq]

/-- The commands whose steps are the engine's own. -/
def engineSteps : List Instr :=
  [.watchTriggerTake, .expiryTriggerTake, .effectSettled, .startQuest, .holdQuest, .resumeQuest, .abandonQuest,
    .loadQuest, .unloadQuest, .readQuest]

theorem Effect.keeps_of_engineSteps {s u : State} {c : Instr} (hc : c ∈ engineSteps) (h : Effect s c u) :
    EngineKeeps s u := by
  unfold engineSteps at hc
  cases h with
  | answer | loadQuest | unloadQuest | holdQuest | dropExpiry | lateExpiry => rfl
  | refuse c m a hstep => obtain rfl | rfl := hstep <;> simp at hc
  | arm c words w e hstep => obtain rfl | rfl := hstep <;> simp at hc
  | holdRegion c words n r hstep => obtain rfl | rfl := hstep <;> simp at hc
  | timerAnswer => exact after_report (keeps_settleTimers s) _ _
  | timerSet => exact after_report (after_updTimer (keeps_settleTimers s) _ _) _ _
  | startQuest => exact keeps_startQuest s _
  | resumeQuest => exact after_report (keeps_resumeQuest s _) _ _
  | resumeLate => exact (keeps_resumeQuest s _).trans (keeps_beginWork _ _ _ _ _ _)
  | abandonQuest => exact (keeps_takeCommand s).trans (keeps_beginWork _ _ _ _ _ _)
  | engineGoesOn => exact keeps_runEngine s
  | takeWatchEntry v writer depth rest =>
    exact EngineKeeps.trans (t := { s with queue := rest }) rfl (keeps_beginWork _ _ _ _ _ _)
  | timeoutExpiry k q rest =>
    exact EngineKeeps.trans (t := { s with queue := rest }) rfl (keeps_beginWork _ _ _ _ _ _)
  | effectSettled => exact keeps_effectSettled s _
  | endGrant a => cases a <;> simp [IRAccess.step] at hc
  | orphanWrite a => cases a <;> simp [IRAccess.step] at hc
  | orphanEffect a => cases a <;> simp [IRAccess.step] at hc
  | _ => simp at hc

/-- Settles O38. -/
theorem engineStepsKeepTheRest : Obligations.EngineStepsKeepTheRest := by
  refine ⟨fun c s hc hwork => ?_, fun c s t hc hexec => ?_⟩
  · have hnone := engineHanded_of_work hwork
    simp only [List.mem_cons, List.not_mem_nil, or_false] at hc
    obtain rfl | rfl | rfl | rfl | rfl | rfl | rfl | rfl | rfl | rfl := hc
    · change execDisarmWatch s = _
      simp [execDisarmWatch, hnone]
    · change execDefineSteps s = _
      simp [execDefineSteps, hnone]
    · change execDefineEffects s = _
      simp [execDefineEffects, hnone]
    · change execLoadQuest s = _
      simp [execLoadQuest, hnone]
    · change execStartQuest s = _
      simp [execStartQuest, hnone]
    · change execHoldQuest s = _
      simp [execHoldQuest, hnone]
    · change execResumeQuest s = _
      simp [execResumeQuest, hnone]
    · change execAbandonQuest s = _
      simp [execAbandonQuest, hnone]
    · change execUnloadQuest s = _
      simp [execUnloadQuest, hnone]
    · change execReadQuest s = _
      simp [execReadQuest, hnone]
  · cases does_of_exec hexec with
    | nothing => rfl
    | powerOn => simp at hc
    | deassert => simp at hc
    | reacts heff => exact (heff.keeps_of_engineSteps hc).react_eq

end Sys2Proof.Machine
end

section
/-! PROOFS. The parts of a work item (O35). -/

namespace Sys2Proof.Machine

open Sys2Proof

/-! ### A part by its task -/

section
variable {s : State} {w : WorkItem} {q : Fin 32}

theorem engineStep_nextVisit (h : w.task = .nextVisit) : s.engineStep w = s.nextVisit w := by
  simp only [State.engineStep, h]

theorem engineStep_pass (h : w.task = .pass q) : s.engineStep w = s.passStep w q := by
  simp only [State.engineStep, h]

theorem engineStep_effects {i : Nat} {outs : List EffectResult} (h : w.task = .effects q i outs) :
    s.engineStep w = s.requestEffect w q i outs := by
  simp only [State.engineStep, h]

theorem engineStep_passed {outs : List EffectResult} (h : w.task = .passed q outs) :
    s.engineStep w = s.finishPass w q outs := by
  simp only [State.engineStep, h]

theorem engineStep_advance {how : Ended} (h : w.task = .advance q how) : s.engineStep w = s.advanceQuest w q how := by
  simp only [State.engineStep, h]

theorem engineStep_timeout (h : w.task = .timeout q) : s.engineStep w = s.timeoutQuest w q := by
  simp only [State.engineStep, h]

theorem engineStep_fail {reason : FailReason} {timer : Option (Fin 8)} {upTo : Option (Fin 32)}
    (h : w.task = .fail q reason timer upTo) : s.engineStep w = s.failQuest w q reason timer upTo := by
  simp only [State.engineStep, h]

/-! ### Entering a step (R31, R32) -/

theorem enterStep_eq {i : Nat} {st : StepRec} (h : st = s.stepRec ((s.quest q).firstStep + i)) :
    s.enterStep w q i =
      State.withTask
        (match st.timer with
          | none => s.updQuest q (fun c => { c with current := i })
          | some t => (s.updQuest q (fun c => { c with current := i })).bindTimer q t)
        w (if st.trigger = none then .pass q else .nextVisit) := by
  have hcurrent : (s.updQuest q (fun c => { c with current := i })).currentStep q = st := by
    unfold State.currentStep State.questStep
    rw [updQuest_self, h]
    rfl
  simp only [State.enterStep, hcurrent] <;> rfl

/-! ### The end of the work item and the visits (R64, R67 to R70) -/

theorem nextVisit_of_none (h : w.visits = []) : s.nextVisit w = s.endWork w := by
  simp only [State.nextVisit, h]

theorem endWork_of_command {code : Nat} (h : w.source = .command code) :
    s.endWork w = { s with work := none, cmd := .reporting .ok 3 [] } := by
  simp only [State.endWork, h]
  rfl

theorem endWork_of_trigger (h : ∀ code, w.source ≠ .command code) : s.endWork w = { s with work := none } := by
  cases hsource : w.source with
  | command code => exact absurd hsource (h code)
  | watch v writer depth => simp only [State.endWork, hsource]
  | expiry k => simp only [State.endWork, hsource]

theorem nextVisit_of_watch {rest : List (Fin 32)} {v : Fin 64} {writer : Writer} {depth : Nat}
    (hvisits : w.visits = q :: rest) (hsource : w.source = .watch v writer depth) :
    s.nextVisit w = s.withTask { w with visits := rest } (s.visitTask w q v) := by
  simp only [State.nextVisit, hvisits, hsource]

/-- R68. -/
theorem countsFor_iff (player : Nat) :
    s.countsFor player q = true ↔
      (s.currentStep q).gated = false ∨ (s.quest q).owner = .any
        ∨ ∃ p : Fin 6, (s.quest q).owner = .player p ∧ player = p.val := by
  unfold State.countsFor
  cases (s.currentStep q).gated <;> cases (s.quest q).owner <;> simp

/-- R70. -/
theorem laterNames_iff (v : Fin 64) :
    s.laterNames q v = true ↔
      ∃ i, (s.quest q).current < i ∧ i < (s.quest q).stepCount
        ∧ (s.stepRec ((s.quest q).firstStep + i)).trigger = some v := by
  simp only [State.laterNames, List.any_eq_true, List.mem_range, Bool.and_eq_true, decide_eq_true_eq, beq_iff_eq,
    State.questStep]
  exact exists_congr fun i => and_left_comm

section
variable {v : Fin 64}

theorem visitTask_inactive (h : (s.quest q).state ≠ .active) : s.visitTask w q v = .nextVisit := by
  simp only [State.visitTask, if_pos h]

theorem visitTask_uncounted (h : s.countsFor w.player q = false) : s.visitTask w q v = .nextVisit := by
  simp only [State.visitTask, h, if_true, ite_self]

variable (hactive : (s.quest q).state = .active) (hcounts : s.countsFor w.player q = true)
include hactive hcounts

theorem visitTask_matched (htrigger : (s.currentStep q).trigger = some v)
    (hguard : ∀ g, (s.currentStep q).guard = some g → (s.watch g).truth = true) : s.visitTask w q v = .pass q := by
  simp only [State.visitTask, hactive, hcounts, htrigger]
  cases hg : (s.currentStep q).guard with
  | none => rfl
  | some g => simp [hguard g hg]

theorem visitTask_guarded {g : Fin 64} (htrigger : (s.currentStep q).trigger = some v)
    (hguard : (s.currentStep q).guard = some g) (hfalse : (s.watch g).truth = false) :
    s.visitTask w q v = .nextVisit := by
  simp [State.visitTask, hactive, hcounts, htrigger, hguard, hfalse]

theorem visitTask_outOfOrder (htrigger : (s.currentStep q).trigger ≠ some v) (horder : (s.quest q).order = .strict)
    (hlater : s.laterNames q v = true) : s.visitTask w q v = .fail q .outOfOrder none none := by
  simp [State.visitTask, hactive, hcounts, htrigger, horder, hlater]

theorem visitTask_ignored (htrigger : (s.currentStep q).trigger ≠ some v)
    (horder : ¬((s.quest q).order = .strict ∧ s.laterNames q v = true)) : s.visitTask w q v = .nextVisit := by
  simp only [State.visitTask, hactive, hcounts, htrigger, if_neg horder]
  rfl

end

/-! ### The effects of a step (R34, R97) -/

theorem requestEffect_none {i : Nat} {outs : List EffectResult} (h : (s.currentStep q).effectCount ≤ i) :
    s.requestEffect w q i outs = s.withTask w (.passed q outs) := by
  simp only [State.requestEffect, if_neg (Nat.not_lt.mpr h)]

theorem requestEffect_skipped {i : Nat} {outs : List EffectResult} (hi : i < (s.currentStep q).effectCount)
    (h : s.effectJob (s.effectRec ((s.currentStep q).firstEffect + i)) w.depth = none) :
    s.requestEffect w q i outs = s.withTask w (.effects q (i + 1) (outs ++ [EffectResult.skip])) := by
  simp only [State.requestEffect, if_pos hi, h]

theorem requestEffect_taken {i : Nat} {outs : List EffectResult} {j : EffectJob}
    (hi : i < (s.currentStep q).effectCount)
    (h : s.effectJob (s.effectRec ((s.currentStep q).firstEffect + i)) w.depth = some j) :
    s.requestEffect w q i outs = State.withTask { s with effectUnit := .grantWait j } w (.awaiting q i outs) := by
  simp only [State.requestEffect, if_pos hi, h]

theorem effectJob_skipped {r : EffectRec} {depth : Nat}
    (h : (r.kind = .writeIf ∧ s.refTruth r.ref = false)
      ∨ (r.kind = .copyShadow ∧ ∃ x, r.ref = some x ∧ (s.watch x).state = .free)) : s.effectJob r depth = none := by
  obtain ⟨hkind, htruth⟩ | ⟨hkind, x, href, hfree⟩ := h
  · simp [State.effectJob, hkind, htruth]
  · simp [State.effectJob, hkind, href, hfree]

theorem effectJob_taken {r : EffectRec} {depth : Nat} (hkind : r.kind ≠ .copyShadow)
    (htruth : r.kind = .writeIf → s.refTruth r.ref = true) :
    s.effectJob r depth = some { record := r, depth := depth, captured := 0 } := by
  unfold State.effectJob
  cases hk : r.kind with
  | copyShadow => exact absurd hk hkind
  | writeIf => simp [htruth hk]
  | _ => rfl

theorem effectJob_copyShadow {r : EffectRec} {depth : Nat} {x : Fin 64} (hkind : r.kind = .copyShadow)
    (href : r.ref = some x) (hdef : (s.watch x).state ≠ .free) :
    s.effectJob r depth = some { record := r, depth := depth, captured := (s.watch x).shadow } := by
  simp [State.effectJob, hkind, href, hdef]

end

/-! ### The notices of the engine (R186) -/

/-- The notice about a quest depends on the quest alone. -/
theorem questNotice_eq {s : State} {q : Fin 32} {c : Quest} (h : s.quest q = c) (w : WorkItem) (kind : NoticeKind) :
    s.questNotice w q kind =
      { kind := kind, number := q.val, step := some c.current, owner := some c.owner, tag := c.tag, statuses := [],
        ended := none, reason := none, timer := none, offer := none, old := 0, new := 0, source := w.source, turn := 0,
        parent := c.parent, child := c.child, depth := c.depth } := by
  unfold State.questNotice
  rw [h]

/-! ### The end of a pass (R33) -/

section
variable {s : State} {w : WorkItem} {q : Fin 32}

/-- R33.3: the notice of a pass, where the step asks for it. -/
def State.passNoticed (s : State) (w : WorkItem) (q : Fin 32) (outs : List EffectResult) : State :=
  if (s.currentStep q).notify = true then
    s.handNotice
      { kind := .stepPassed, number := q.val, step := some (s.quest q).current, owner := some (s.quest q).owner,
        tag := (s.quest q).tag, statuses := outs.map EffectResult.status, ended := some .passed, reason := none,
        timer := none, offer := none, old := (match outs with | [] => 0 | o :: _ => o.old),
        new := (match outs with | [] => 0 | o :: _ => o.new), source := w.source, turn := 0,
        parent := (s.quest q).parent, child := (s.quest q).child, depth := (s.quest q).depth }
  else s

theorem finishPass_without_call {outs : List EffectResult} (h : (s.currentStep q).call = none) :
    s.finishPass w q outs = (s.passNoticed w q outs).withTask w (.advance q .passed) := by
  simp only [State.finishPass, h]
  cases outs <;> rfl

theorem finishPass_with_call {outs : List EffectResult} {c : Fin 32} (h : (s.currentStep q).call = some c) :
    s.finishPass w q outs = (s.passNoticed w q outs).makeCall w q c := by
  simp only [State.finishPass, h]
  cases outs <;> rfl

theorem makeCall_refused {p c : Fin 32} {reason : FailReason} (h : s.callRefused p c = some reason) :
    s.makeCall w p c = s.withTask w (.fail p reason none none) := by
  simp only [State.makeCall, h]

theorem makeCall_accepted {p c : Fin 32} (h : s.callRefused p c = none) :
    s.makeCall w p c =
      State.beginQuest
        ((s.updQuest p (fun x => { x with child := some c, state := .suspended })).updQuest c
          (fun x => { x with parent := some p }))
        w c ((s.quest p).depth + 1) := by
  simp only [State.makeCall, h]

theorem callRefused_depth {p c : Fin 32} (h : 3 ≤ (s.quest p).depth) : s.callRefused p c = some .depth := by
  simp only [State.callRefused, if_pos h]

theorem callRefused_busy {p c : Fin 32} (hdepth : (s.quest p).depth < 3)
    (h : (s.quest c).state = .vacant ∨ (s.quest c).state.running = true ∨ s.validateQuest c ≠ none) :
    s.callRefused p c = some .callBusy := by
  simp only [State.callRefused, if_neg (Nat.not_le.mpr hdepth)]
  by_cases hvacant : (s.quest c).state = .vacant
  · simp only [if_pos hvacant]
  · by_cases hrun : (s.quest c).state.running = true
    · simp only [if_neg hvacant, if_pos hrun]
    · have hinvalid : (s.validateQuest c).isSome = true :=
        Option.isSome_iff_ne_none.mpr ((h.resolve_left hvacant).resolve_left hrun)
      simp only [if_neg hvacant, if_neg hrun, if_pos hinvalid]

theorem callRefused_accepted {p c : Fin 32} (hdepth : (s.quest p).depth < 3) (hdef : (s.quest c).state ≠ .vacant)
    (hrest : (s.quest c).state.running = false) (hvalid : s.validateQuest c = none) : s.callRefused p c = none := by
  simp [State.callRefused, Nat.not_le.mpr hdepth, hdef, hrest, hvalid]

/-! ### The advance (R35, R85, R86) -/

theorem advanceQuest_enters {how : Ended} (h : (s.quest q).current + 1 < (s.quest q).stepCount) :
    s.advanceQuest w q how = s.enterStep w q ((s.quest q).current + 1) := by
  simp only [State.advanceQuest, if_pos h]

/-- R35: the quest is DONE, and its notice is handed over. -/
def State.completed (s : State) (w : WorkItem) (q : Fin 32) (how : Ended) : State :=
  (s.updQuest q (fun c => { c with state := .done, late := false })).handNotice
    { kind := .questDone, number := q.val, step := some (s.quest q).current, owner := some (s.quest q).owner,
      tag := (s.quest q).tag, statuses := [], ended := some how, reason := none, timer := none, offer := none, old := 0,
      new := 0, source := w.source, turn := 0, parent := (s.quest q).parent, child := (s.quest q).child,
      depth := (s.quest q).depth }

theorem advanceQuest_completes {how : Ended} (h : (s.quest q).stepCount ≤ (s.quest q).current + 1) :
    s.advanceQuest w q how =
      match (s.quest q).parent with
      | none => (s.completed w q how).withTask w .nextVisit
      | some p =>
        State.withTask
          (((s.completed w q how).updQuest q (fun c => { c with parent := none })).updQuest p
            (fun c => { c with child := none, state := .active }))
          w (.advance p .passed) := by
  simp only [State.advanceQuest, if_neg (Nat.not_lt.mpr h), questNotice_eq (updQuest_self _ _ _), State.completed] <;> rfl

/-! ### A timeout (R36 to R39) -/

theorem timeoutQuest_fail (h : (s.currentStep q).action = .fail) :
    s.timeoutQuest w q = (s.release q).withTask w (.fail q .timeout (s.currentStep q).timer none) := by
  simp only [State.timeoutQuest, h]

theorem timeoutQuest_skip (h : (s.currentStep q).action = .skip) (hquiet : (s.currentStep q).notify = false) :
    s.timeoutQuest w q = (s.release q).withTask w (.advance q .skipped) := by
  simp only [State.timeoutQuest, h, hquiet]
  rfl

/-- The notice of a timeout that does not fail the quest (log 18: it names the step's timer). -/
def State.timeoutNotice (s : State) (q : Fin 32) (source : Source) (kind : NoticeKind) (how : Ended) : Notice :=
  { kind := kind, number := q.val, step := some (s.quest q).current, owner := some (s.quest q).owner,
    tag := (s.quest q).tag, statuses := [], ended := some how, reason := none, timer := (s.currentStep q).timer,
    offer := none, old := 0, new := 0, source := source, turn := 0, parent := (s.quest q).parent,
    child := (s.quest q).child, depth := (s.quest q).depth }

theorem timeoutQuest_skip_noticed (h : (s.currentStep q).action = .skip) (hnotify : (s.currentStep q).notify = true) :
    s.timeoutQuest w q =
      ((s.release q).handNotice (s.timeoutNotice q w.source .stepSkipped .skipped)).withTask w (.advance q .skipped) := by
  simp only [State.timeoutQuest, h, hnotify, questNotice_eq (release_quest_self s q), State.timeoutNotice]
  rfl

theorem timeoutQuest_note (h : (s.currentStep q).action = .note) :
    s.timeoutQuest w q =
      ((s.release q).handNotice (s.timeoutNotice q w.source .stepLate .late)).withTask w .nextVisit := by
  simp only [State.timeoutQuest, h, questNotice_eq (release_quest_self s q), State.timeoutNotice]

/-! ### A failure (R40, R87, R89) -/

/-- R40: the quest fails: the binding is released, the notice handed over, and the late flag cleared. -/
def State.failed (s : State) (source : Source) (q : Fin 32) (reason : FailReason) (timer : Option (Fin 8)) : State :=
  State.updQuest
    (State.handNotice
      ((s.release q).updQuest q (fun c => { c with reason := some reason, state := .failed }))
      { kind := .questFailed, number := q.val, step := some (s.quest q).current, owner := some (s.quest q).owner,
        tag := (s.quest q).tag, statuses := [], ended := none, reason := some reason, timer := timer, offer := none,
        old := 0, new := 0, source := source, turn := 0, parent := (s.quest q).parent, child := (s.quest q).child,
        depth := (s.quest q).depth })
    q (fun c => { c with late := false })

/-- The quest of a failure, before its notice. -/
theorem failing_quest (s : State) (q : Fin 32) (reason : FailReason) :
    ((s.release q).updQuest q (fun c => { c with reason := some reason, state := .failed })).quest q =
      { s.quest q with bound := none, reason := some reason, state := .failed } := by
  rw [updQuest_self, release_quest_self]

theorem failQuest_alone {reason : FailReason} {timer : Option (Fin 8)} {upTo : Option (Fin 32)}
    (h : (s.quest q).parent = none) :
    s.failQuest w q reason timer upTo = (s.failed w.source q reason timer).withTask w .nextVisit := by
  simp only [State.failQuest, questNotice_eq (failing_quest s q reason), failing_quest, h, State.failed]

theorem failQuest_linked {reason : FailReason} {timer : Option (Fin 8)} {upTo : Option (Fin 32)} {p : Fin 32}
    (h : (s.quest q).parent = some p) :
    s.failQuest w q reason timer upTo =
      State.withTask
        (((s.failed w.source q reason timer).updQuest q (fun c => { c with parent := none })).updQuest p
          (fun c => { c with child := none }))
        w (.fail p (parentFailure q upTo).1 none (parentFailure q upTo).2) := by
  simp only [State.failQuest, questNotice_eq (failing_quest s q reason), failing_quest, h, State.failed]

theorem parentFailure_reached {upTo : Option (Fin 32)} (h : upTo = none ∨ upTo = some q) :
    parentFailure q upTo = (.childFailed, none) := by
  obtain rfl | rfl := h
  · rfl
  · exact if_pos rfl

theorem parentFailure_below {n : Fin 32} (h : n ≠ q) : parentFailure q (some n) = (.abandoned, some n) := if_neg h

end

/-- Settles O35, a part at a time. -/
theorem enginePartsFollowTheRules : Obligations.EnginePartsFollowTheRules := by
  refine ⟨?enter, fun s w q depth => rfl, fun s w htask hvisits => ⟨?command, ?trigger⟩, ?visit, fun s w q =>
    ⟨fun htask => engineStep_pass htask, fun i outs htask => ?effects, fun outs u htask hu => ?passed,
      fun how htask => ?advance, fun htask => ?timeout, fun reason timer upTo u htask hu => ?fail⟩⟩
  case enter =>
    intro s w q i st u v hst hu hv
    rw [enterStep_eq hst, hv, hu]
    cases st.timer <;> rfl
  case command =>
    rintro ⟨code, hsource⟩
    rw [engineStep_nextVisit htask, nextVisit_of_none hvisits, endWork_of_command hsource]
  case trigger =>
    intro hsource
    rw [engineStep_nextVisit htask, nextVisit_of_none hvisits, endWork_of_trigger hsource]
  case visit =>
    intro s w q rest v writer depth st counts later next htask hvisits hsource hst hcounts hlater hnext
    subst hst
    have hvisit : s.engineStep w = next (s.visitTask w q v) := by
      rw [engineStep_nextVisit htask, nextVisit_of_watch hvisits hsource, hnext]
      rfl
    have hcounts' := (countsFor_iff (s := s) (q := q) w.player).trans hcounts.symm
    have hlater' := (laterNames_iff (s := s) (q := q) v).trans hlater.symm
    rw [hvisit]
    refine ⟨?passedOver, fun hactive hyes => ?_⟩
    · rintro (hinactive | hno)
      · rw [visitTask_inactive hinactive]
      · rw [visitTask_uncounted (Bool.eq_false_iff.mpr fun hc => hno (hcounts'.mp hc))]
    · have hyes' := hcounts'.mpr hyes
      refine ⟨fun htrigger hguard => ?_, fun htrigger ⟨g, hguard, hfalse⟩ => ?_, fun htrigger horder hnamed => ?_,
        fun htrigger hignored => ?_⟩
      · rw [visitTask_matched hactive hyes' htrigger hguard]
      · rw [visitTask_guarded hactive hyes' htrigger hguard hfalse]
      · rw [visitTask_outOfOrder hactive hyes' htrigger horder (hlater'.mpr hnamed)]
      · rw [visitTask_ignored hactive hyes' htrigger]
        rintro ⟨hstrict, hnamed⟩
        obtain hloose | hnone := hignored
        · rw [hstrict] at hloose
          cases hloose
        · exact hnone (hlater'.mp hnamed)
  case effects =>
    rw [engineStep_effects htask]
    refine ⟨fun hnone => requestEffect_none hnone, fun r hi hr => ?_⟩
    subst hr
    refine ⟨fun hskip => ?_, fun hkind htruth => ?_, fun x hkind href hdef => ?_⟩
    · exact requestEffect_skipped hi (effectJob_skipped hskip)
    · exact requestEffect_taken hi (effectJob_taken hkind htruth)
    · exact requestEffect_taken hi (effectJob_copyShadow hkind href hdef)
  case passed =>
    obtain rfl : u = s.passNoticed w q outs := hu
    rw [engineStep_passed htask]
    refine ⟨fun hcall => finishPass_without_call hcall, fun c hcall => ?_⟩
    rw [finishPass_with_call hcall]
    refine ⟨fun hdeep => ?_, fun hdepth hbusy => ?_, fun hdepth hdef hrest hvalid => ?_⟩
    · exact makeCall_refused (callRefused_depth hdeep)
    · exact makeCall_refused (callRefused_busy hdepth hbusy)
    · exact makeCall_accepted (callRefused_accepted hdepth hdef hrest hvalid)
  case advance =>
    rw [engineStep_advance htask]
    refine ⟨fun hnext => advanceQuest_enters hnext, fun u hlast hu => ?_⟩
    obtain rfl : u = s.completed w q how := hu
    rw [advanceQuest_completes hlast]
    refine ⟨fun hparent => ?_, fun p hparent => ?_⟩
    · rw [hparent]
      rfl
    · rw [hparent]
      rfl
  case timeout =>
    rw [engineStep_timeout htask]
    exact ⟨fun h => timeoutQuest_fail h, fun h hquiet => timeoutQuest_skip h hquiet,
      fun h hnotify => timeoutQuest_skip_noticed h hnotify, fun h => timeoutQuest_note h⟩
  case fail =>
    obtain rfl : u = s.failed w.source q reason timer := hu
    rw [engineStep_fail htask]
    refine ⟨fun hparent => failQuest_alone hparent, fun p hparent v hv => ?_⟩
    subst hv
    rw [failQuest_linked hparent]
    refine ⟨fun hreached => ?_, fun n hn hne => ?_⟩
    · rw [parentFailure_reached hreached]
      rfl
    · rw [hn, parentFailure_below hne]
      rfl

end Sys2Proof.Machine
end

section
/-! PROOFS. Runs of the engine to their end, the delivery of an expiry (O37), and HOLD QUEST and RESUME QUEST (O33). -/

namespace Sys2Proof.Machine

open Sys2Proof

/-! ### Runs of the engine (R64; log 21) -/

theorem setWork_of_cmd {s : State} {c : CmdState} (h : s.cmd = c) (w : Option WorkItem) :
    s.setWork w c = { s with work := w } := by
  subst h
  rfl

section
variable {s : State} {w : WorkItem} {c : CmdState} {q : Fin 32}

theorem runParts_setWork_succ (n : Nat) (h : w.task.waits = false) :
    runParts (n + 1) (s.setWork (some w) c) = runParts n ((s.setWork (some w) c).engineStep w) :=
  runParts_succ n _ w rfl h

theorem runEngine_setWork (h : w.task.waits = false) :
    (s.setWork (some w) c).runEngine = runParts 0x3FFFFFF ((s.setWork (some w) c).engineStep w) :=
  runEngine_succ _ w rfl h

/-- Without visits left, the work item of a command ends with status OK. -/
theorem runParts_last_of_command {n code : Nat} (htask : w.task = .nextVisit) (hvisits : w.visits = [])
    (hsource : w.source = .command code) :
    runParts (n + 1) (s.setWork (some w) c) = s.setWork none (.reporting .ok 3 []) := by
  rw [runParts_setWork_succ n (by rw [htask]; rfl), engineStep_nextVisit htask, nextVisit_of_none hvisits,
    endWork_of_command hsource]
  exact runParts_settled n _ rfl

/-- Without visits left, the work item of a trigger ends. -/
theorem runParts_last_of_trigger {n : Nat} (htask : w.task = .nextVisit) (hvisits : w.visits = [])
    (hsource : ∀ code, w.source ≠ .command code) :
    runParts (n + 1) (s.setWork (some w) c) = s.setWork none c := by
  rw [runParts_setWork_succ n (by rw [htask]; rfl), engineStep_nextVisit htask, nextVisit_of_none hvisits,
    endWork_of_trigger hsource]
  exact runParts_settled n _ rfl

/-! ### Parts that do not read the work item or the command -/

theorem setWork_failed (source : Source) (reason : FailReason) (timer : Option (Fin 8)) :
    (s.setWork (some w) c).failed source q reason timer = (s.failed source q reason timer).setWork (some w) c := by
  simp only [State.failed, setWork_release, setWork_updQuest, setWork_handNotice]
  rfl

/-! ### What a release keeps -/

theorem settleTimers_cmd (s : State) : s.settleTimers.cmd = s.cmd := by
  rw [settleTimers_eq]

theorem release_cmd (s : State) (q : Fin 32) : (s.release q).cmd = s.cmd := by
  unfold State.release
  split
  · rfl
  · simp only [updQuest_cmd, updTimer_cmd, settleTimers_cmd]

theorem failed_cmd (s : State) (source : Source) (q : Fin 32) (reason : FailReason) (timer : Option (Fin 8)) :
    (s.failed source q reason timer).cmd = s.cmd := by
  unfold State.failed
  rw [updQuest_cmd, handNotice_cmd, updQuest_cmd, release_cmd]

theorem release_currentStep (s : State) (q : Fin 32) : (s.release q).currentStep q = s.currentStep q := by
  unfold State.currentStep State.questStep State.stepRec
  rw [release_quest_self, (after_release rfl q : EngineKeeps s (s.release q)).steps_eq]

/-! ### Runs that begin with a timeout or a failure -/

/-- R39: a timeout whose action is NOTE, as the last part of a trigger's work item. -/
theorem runEngine_timeout_note (htask : w.task = .timeout q) (hvisits : w.visits = [])
    (hsource : ∀ code, w.source ≠ .command code) (haction : (s.currentStep q).action = .note) :
    (s.setWork (some w) c).runEngine =
      ((s.release q).handNotice (s.timeoutNotice q w.source .stepLate .late)).setWork none c := by
  rw [runEngine_setWork (by rw [htask]; rfl), engineStep_timeout htask, timeoutQuest_note (s := s.setWork (some w) c) haction,
    setWork_release, setWork_handNotice, setWork_withTask]
  exact runParts_last_of_trigger (w := { w with task := .nextVisit }) (n := 0x3FFFFFE) rfl hvisits hsource

/-- R40: the failure of a quest without a parent, as the last part of a command's work item. -/
theorem runParts_fail_of_command {n code : Nat} {reason : FailReason} {timer : Option (Fin 8)} {upTo : Option (Fin 32)}
    (htask : w.task = .fail q reason timer upTo) (hvisits : w.visits = []) (hsource : w.source = .command code)
    (hparent : (s.quest q).parent = none) :
    runParts (n + 2) (s.setWork (some w) c) =
      (s.failed w.source q reason timer).setWork none (.reporting .ok 3 []) := by
  rw [runParts_setWork_succ (n + 1) (by rw [htask]; rfl), engineStep_fail htask,
    failQuest_alone (s := s.setWork (some w) c) hparent, setWork_failed, setWork_withTask]
  exact runParts_last_of_command (w := { w with task := .nextVisit }) rfl hvisits hsource

/-- R40: the failure of a quest without a parent, as the last part of a trigger's work item. -/
theorem runParts_fail_of_trigger {n : Nat} {reason : FailReason} {timer : Option (Fin 8)} {upTo : Option (Fin 32)}
    (htask : w.task = .fail q reason timer upTo) (hvisits : w.visits = [])
    (hsource : ∀ code, w.source ≠ .command code) (hparent : (s.quest q).parent = none) :
    runParts (n + 2) (s.setWork (some w) c) = (s.failed w.source q reason timer).setWork none c := by
  rw [runParts_setWork_succ (n + 1) (by rw [htask]; rfl), engineStep_fail htask,
    failQuest_alone (s := s.setWork (some w) c) hparent, setWork_failed, setWork_withTask]
  exact runParts_last_of_trigger (w := { w with task := .nextVisit }) rfl hvisits hsource

/-- R37, R40: a timeout whose action is FAIL, on a quest without a parent. -/
theorem runEngine_timeout_fail {code : Nat} (htask : w.task = .timeout q) (hvisits : w.visits = [])
    (hsource : w.source = .command code) (haction : (s.currentStep q).action = .fail)
    (hparent : (s.quest q).parent = none) :
    (s.setWork (some w) c).runEngine =
      ((s.release q).failed w.source q .timeout (s.currentStep q).timer).setWork none (.reporting .ok 3 []) := by
  rw [runEngine_setWork (by rw [htask]; rfl), engineStep_timeout htask, timeoutQuest_fail (s := s.setWork (some w) c) haction,
    setWork_release, setWork_withTask]
  exact runParts_fail_of_command (w := { w with task := .fail q .timeout (s.currentStep q).timer none })
    (n := 0x3FFFFFD) rfl hvisits hsource (by rw [release_quest_self]; exact hparent)

end

/-! ### The delivery of an expiry (O37) -/

theorem turnPlayer_eq (s : State) : s.turnPlayer = s.page.turn.toNat % 16 := bits_player _

section
variable {s : State} {k : Fin 8} {binder : Option (Fin 32)} {rest : List Trigger}

theorem engineReady_of_idle (h : s.work = none) : s.engineReady = false := by
  simp only [State.engineReady, h]

theorem exec_expiryTriggerTake_of_waiting (hwork : s.work = none) (hwaits : s.engineCommandWaits = true) :
    exec .expiryTriggerTake s = .next s := by
  change execExpiryTriggerTake s = _
  simp [execExpiryTriggerTake, engineReady_of_idle hwork, hwaits]

theorem exec_expiryTriggerTake_of_head (hwork : s.work = none) (hnowait : s.engineCommandWaits = false)
    (hqueue : s.queue = .expiry k binder :: rest) :
    exec .expiryTriggerTake s = .next (State.takeExpiryEntry { s with queue := rest } k binder).react := by
  change execExpiryTriggerTake s = _
  simp [execExpiryTriggerTake, engineReady_of_idle hwork, hwork, hnowait, hqueue, done_eq]

variable {q : Fin 32}

theorem takeExpiryEntry_unbound (h : (s.quest q).bound ≠ some k) : s.takeExpiryEntry k (some q) = s := by
  simp [State.takeExpiryEntry, State.holdsTimer, h]

theorem takeExpiryEntry_held (hbound : (s.quest q).bound = some k) (hheld : (s.quest q).state = .held) :
    s.takeExpiryEntry k (some q) = s.updQuest q (fun c => { c with late := true }) := by
  simp [State.takeExpiryEntry, State.holdsTimer, hbound, hheld]

theorem takeExpiryEntry_active (hbound : (s.quest q).bound = some k) (hactive : (s.quest q).state = .active) :
    s.takeExpiryEntry k (some q) = s.beginWork (.expiry k) 0 s.turnPlayer [] (.timeout q) := by
  simp [State.takeExpiryEntry, State.holdsTimer, hbound, hactive]

end

theorem beginWork_eq (s : State) (source : Source) (depth player : Nat) (visits : List (Fin 32)) (task : Task) :
    s.beginWork source depth player visits task =
      (s.setWork (some { source := source, depth := depth, player := player, visits := visits, task := task })
        s.cmd).runEngine :=
  rfl

/-- Settles O37. -/
theorem expiryIsDeliveredByTheBinding : Obligations.ExpiryIsDeliveredByTheBinding := by
  refine ⟨fun s k binder rest hwork hnowait hqueue => ?_, fun s hwork hwaits =>
    exec_expiryTriggerTake_of_waiting hwork hwaits⟩
  have hexec := exec_expiryTriggerTake_of_head hwork hnowait hqueue
  refine ⟨fun hnone => by rw [hexec, hnone]; rfl, fun q hq => ?_⟩
  subst hq
  refine ⟨fun hother => ?unbound, fun hbound hheld => ?held, fun hbound hactive => ⟨?active, fun hnote => ?note⟩⟩
  case unbound => rw [hexec, takeExpiryEntry_unbound (s := { s with queue := rest }) hother]
  case held => rw [hexec, takeExpiryEntry_held (s := { s with queue := rest }) hbound hheld]
  case active =>
    rw [hexec, takeExpiryEntry_active (s := { s with queue := rest }) hbound hactive, turnPlayer_eq]
    rfl
  case note =>
    rw [hexec, takeExpiryEntry_active (s := { s with queue := rest }) hbound hactive, beginWork_eq,
      runEngine_timeout_note (s := { s with queue := rest }) (q := q) rfl rfl (fun code h => by cases h) hnote]
    have hcmd : ((State.release { s with queue := rest } q).handNotice
        (State.timeoutNotice { s with queue := rest } q (.expiry k) .stepLate .late)).cmd = s.cmd := by
      rw [handNotice_cmd, release_cmd]
    rw [setWork_of_cmd hcmd]
    rfl

/-! ### HOLD QUEST and RESUME QUEST (O33) -/

section
variable {s : State} {words : List Word} {q : Fin 32}

theorem exec_holdQuest_of_handsEngine (h : s.handsEngine 0x24 words) :
    exec .holdQuest s = .next (s.holdQuest words).react := by
  change execHoldQuest s = _
  simp [execHoldQuest, engineHanded_of_handsEngine h, done_eq]

theorem exec_resumeQuest_of_handsEngine (h : s.handsEngine 0x25 words) :
    exec .resumeQuest s = .next (s.resumeQuest words).react := by
  change execResumeQuest s = _
  simp [execResumeQuest, engineHanded_of_handsEngine h, done_eq]

theorem holdQuest_outOfRange (h : 31 < bits (wordAt words 2) 0 8) : s.holdQuest words = s.report .outOfRange [] := by
  simp [State.holdQuest, questOf_eq_none h]

theorem holdQuest_vacant (hq : bits (wordAt words 2) 0 8 = q.val) (h : (s.quest q).state = .vacant) :
    s.holdQuest words = s.report .notDefined [] := by
  simp [State.holdQuest, questOf_eq_some hq, h]

theorem holdQuest_active (hq : bits (wordAt words 2) 0 8 = q.val) (h : (s.quest q).state = .active) :
    s.holdQuest words = (s.updQuest q (fun c => { c with state := .held })).report .ok [] := by
  simp [State.holdQuest, questOf_eq_some hq, h]

theorem holdQuest_busy (hq : bits (wordAt words 2) 0 8 = q.val) (hdef : (s.quest q).state ≠ .vacant)
    (hother : (s.quest q).state ≠ .active) : s.holdQuest words = s.report .busy [] := by
  simp only [State.holdQuest, questOf_eq_some hq]
  cases h : (s.quest q).state with
  | vacant => exact absurd h hdef
  | active => exact absurd h hother
  | _ => rfl

theorem resumeQuest_outOfRange (h : 31 < bits (wordAt words 2) 0 8) :
    s.resumeQuest words = s.report .outOfRange [] := by
  simp [State.resumeQuest, questOf_eq_none h]

theorem resumeQuest_vacant (hq : bits (wordAt words 2) 0 8 = q.val) (h : (s.quest q).state = .vacant) :
    s.resumeQuest words = s.report .notDefined [] := by
  simp [State.resumeQuest, questOf_eq_some hq, h]

theorem resumeQuest_busy (hq : bits (wordAt words 2) 0 8 = q.val) (hdef : (s.quest q).state ≠ .vacant)
    (hother : (s.quest q).state ≠ .held) : s.resumeQuest words = s.report .busy [] := by
  simp only [State.resumeQuest, questOf_eq_some hq]
  cases h : (s.quest q).state with
  | vacant => exact absurd h hdef
  | held => exact absurd h hother
  | _ => rfl

theorem resumeQuest_prompt (hq : bits (wordAt words 2) 0 8 = q.val) (hheld : (s.quest q).state = .held)
    (hlate : (s.quest q).late = false) :
    s.resumeQuest words =
      (s.takeCommand.updQuest q (fun c => { c with state := .active, late := false })).report .ok [] := by
  simp [State.resumeQuest, questOf_eq_some hq, hheld, hlate]

theorem resumeQuest_late (hq : bits (wordAt words 2) 0 8 = q.val) (hheld : (s.quest q).state = .held)
    (hlate : (s.quest q).late = true) :
    s.resumeQuest words =
      (s.takeCommand.updQuest q (fun c => { c with state := .active, late := false })).beginWork
        (.command 0x25) 0 s.turnPlayer [] (.timeout q) := by
  simp [State.resumeQuest, questOf_eq_some hq, hheld, hlate]

/-- A quest's update that changes nothing in one of its fields. -/
theorem updQuest_congr {f g : Quest → Quest} (h : f (s.quest q) = g (s.quest q)) : s.updQuest q f = s.updQuest q g := by
  unfold State.updQuest
  rw [h]

end

/-- Settles O33. -/
theorem holdAndResumeQuest : Obligations.HoldAndResumeQuest := by
  refine ⟨fun s words hands => ⟨fun hnum => ?_, fun q hq => ⟨fun hvacant => ?_, fun hdef hother => ?_, fun hactive => ?_⟩⟩,
    fun s words hands => ⟨fun hnum => ?_, fun q hq => ⟨fun hvacant => ?_, fun hdef hother => ?_, fun hheld hlate => ?prompt,
      fun hheld hlate => ?late, fun hheld hlate hfail hparent => ?fail⟩⟩⟩
  · rw [exec_holdQuest_of_handsEngine hands, holdQuest_outOfRange hnum]
    rfl
  · rw [exec_holdQuest_of_handsEngine hands, holdQuest_vacant hq hvacant]
    rfl
  · rw [exec_holdQuest_of_handsEngine hands, holdQuest_busy hq hdef hother]
    rfl
  · rw [exec_holdQuest_of_handsEngine hands, holdQuest_active hq hactive]
    rfl
  · rw [exec_resumeQuest_of_handsEngine hands, resumeQuest_outOfRange hnum]
    rfl
  · rw [exec_resumeQuest_of_handsEngine hands, resumeQuest_vacant hq hvacant]
    rfl
  · rw [exec_resumeQuest_of_handsEngine hands, resumeQuest_busy hq hdef hother]
    rfl
  case prompt =>
    have hkeep : s.updQuest q (fun c => { c with state := .active }) =
        s.updQuest q (fun c => { c with state := .active, late := false }) :=
      updQuest_congr (by simp only [← hlate])
    rw [exec_resumeQuest_of_handsEngine hands, resumeQuest_prompt hq hheld hlate, hkeep,
      takeCommand_of_dispatched hands.1.1]
    rfl
  all_goals
    rw [exec_resumeQuest_of_handsEngine hands, resumeQuest_late hq hheld hlate, turnPlayer_eq,
      takeCommand_of_dispatched hands.1.1, beginWork_eq]
  case late => rfl
  case fail =>
    have hresumed := updQuest_self s q (fun c : Quest => { c with state := .active, late := false })
    generalize hv : s.updQuest q (fun c => { c with state := .active, late := false }) = v at hresumed
    have hbase : State.updQuest { s with cmd := .dispatched words true } q
        (fun c => { c with state := .active, late := false }) = v.setWork s.work (.dispatched words true) := by
      rw [← hv]
      rfl
    have hstep : v.currentStep q = s.currentStep q := by
      unfold State.currentStep State.questStep
      rw [hresumed, ← hv]
      rfl
    refine ⟨v.release q, rfl, ?_⟩
    rw [hbase, setWork_setWork,
      runEngine_timeout_fail (q := q) rfl rfl rfl (hstep ▸ hfail) (by rw [hresumed]; exact hparent)]
    have hquest := release_quest_self v q
    rw [hresumed] at hquest
    simp only [State.failed, release_unbound _ q (congrArg Quest.bound hquest), hquest, hstep, hparent]
    rfl

end Sys2Proof.Machine
end

section
/-! PROOFS. START QUEST (O32), and the visit of a WATCH trigger (O36). -/

namespace Sys2Proof.Machine

open Sys2Proof

/-! ### The validation of a quest (R46) -/

theorem firstFault_append (a b : List (Bool × Status)) : firstFault (a ++ b) = (firstFault a).or (firstFault b) := by
  unfold firstFault
  rw [List.find?_append, Option.map_or]

theorem firstFault_cons_bool (b : Bool) (st : Status) (checks : List (Bool × Status)) :
    firstFault ((b, st) :: checks) = if b then some st else firstFault checks := by
  cases b <;> rfl

theorem firstFault_map {α : Type} (l : List α) (p : α → Bool) (st : Status) :
    firstFault (l.map (fun a => (p a, st))) = if l.any p then some st else none := by
  induction l with
  | nil => rfl
  | cons a rest ih =>
    rw [List.map_cons, firstFault_cons_bool, ih, List.any_cons]
    cases p a <;> rfl

theorem firstFault_flatMap {α : Type} (l : List α) (f : α → List (Bool × Status)) :
    firstFault (l.flatMap f) = l.findSome? fun a => firstFault (f a) := by
  simp only [firstFault, List.find?_flatMap, List.map_findSome?]
  rfl

theorem namesFree_eq (s : State) (ref : Option (Fin 64)) :
    s.namesFree ref = ref.any (fun w => (s.watch w).state == .free) := by
  cases ref <;> rfl

theorem namesUnset_eq (s : State) (t : Option (Fin 8)) : s.namesUnset t = t.any (fun t => (s.timer t).reload == 0) := by
  cases t <;> rfl

/-- R46 check 4, of one step. -/
theorem validateStep_eq (s : State) (q : Fin 32) (st : StepRec) :
    s.validateStep q st =
      firstFault
        ([ (st.trigger.any (fun w => (s.watch w).state == .free), Status.notDefined),
            (st.guard.any (fun w => (s.watch w).state == .free), .notDefined),
            (st.timer.any (fun t => (s.timer t).reload == 0), .notDefined),
            (st.call == some q, .badField) ]
          ++ (List.range st.effectCount).map (fun n =>
            ((s.effectRec (st.firstEffect + n)).kind.usesWatch
                && (s.effectRec (st.firstEffect + n)).ref.any (fun w => (s.watch w).state == .free),
              .notDefined))) := by
  rw [firstFault_append, firstFault_map]
  simp only [← namesFree_eq, ← namesUnset_eq, State.validateStep, State.stepEffects, List.any_map, Function.comp_def]
  cases s.namesFree st.trigger with
  | true => rfl
  | false =>
  cases s.namesFree st.guard with
  | true => rfl
  | false =>
  cases s.namesUnset st.timer with
  | true => rfl
  | false =>
  by_cases hcall : st.call = some q
  · rw [hcall]
    simp [firstFault]
  · have hother : (st.call == some q) = false := by simpa using hcall
    simp [firstFault, hcall, hother]

theorem validateQuest_eq (s : State) (q : Fin 32) :
    s.validateQuest q = (List.range (s.quest q).stepCount).findSome? fun i => s.validateStep q (s.questStep q i) := by
  unfold State.validateQuest State.questSteps
  rw [List.findSome?_map]
  rfl

/-! ### START QUEST (R46, R47) -/

section
variable {s : State} {words : List Word} {q : Fin 32}

theorem exec_startQuest_of_handsEngine (h : s.handsEngine 0x23 words) :
    exec .startQuest s = .next (s.startQuest words).react := by
  change execStartQuest s = _
  simp [execStartQuest, engineHanded_of_handsEngine h, done_eq]

theorem startQuest_outOfRange (h : 31 < bits (wordAt words 2) 0 8) : s.startQuest words = s.report .outOfRange [] := by
  simp [State.startQuest, questOf_eq_none h]

theorem startQuest_vacant (hq : bits (wordAt words 2) 0 8 = q.val) (h : (s.quest q).state = .vacant) :
    s.startQuest words = s.report .notDefined [] := by
  simp [State.startQuest, questOf_eq_some hq, h]

theorem startQuest_running (hq : bits (wordAt words 2) 0 8 = q.val) (h : (s.quest q).state.running = true) :
    s.startQuest words = s.report .busy [] := by
  have hdef : (s.quest q).state ≠ .vacant := fun hvacant => by
    rw [hvacant] at h
    cases h
  simp [State.startQuest, questOf_eq_some hq, h, hdef]

theorem startQuest_invalid {st : Status} (hq : bits (wordAt words 2) 0 8 = q.val) (hdef : (s.quest q).state ≠ .vacant)
    (hrest : (s.quest q).state.running = false) (hvalid : s.validateQuest q = some st) :
    s.startQuest words = s.report st [] := by
  simp [State.startQuest, questOf_eq_some hq, hdef, hrest, hvalid]

theorem startQuest_begins (hq : bits (wordAt words 2) 0 8 = q.val) (hdef : (s.quest q).state ≠ .vacant)
    (hrest : (s.quest q).state.running = false) (hvalid : s.validateQuest q = none) :
    s.startQuest words = State.runEngine (s.takeCommand.beginQuest (commandWork 0x23 s.turnPlayer) q 0) := by
  simp [State.startQuest, questOf_eq_some hq, hdef, hrest, hvalid]

/-- R31: the state in which a quest has entered a step: the timer of the step, where it names one, is bound. -/
def State.bound (s : State) (q : Fin 32) : Option (Fin 8) → State
  | none => s
  | some t => s.bindTimer q t

theorem setWork_bound (w : Option WorkItem) (c : CmdState) (t : Option (Fin 8)) :
    (s.setWork w c).bound q t = (s.bound q t).setWork w c := by
  cases t with
  | none => rfl
  | some t => exact setWork_bindTimer s w c q t

theorem enterStep_bound {w : WorkItem} {i : Nat} {st : StepRec} (h : st = s.stepRec ((s.quest q).firstStep + i)) :
    s.enterStep w q i =
      ((s.updQuest q (fun c => { c with current := i })).bound q st.timer).withTask w
        (if st.trigger = none then .pass q else .nextVisit) := by
  rw [enterStep_eq h]
  cases st.timer <;> rfl

/-- R47: the quest of a START QUEST. -/
def Quest.begun (c : Quest) : Quest := { c with reason := none, late := false, depth := 0, current := 0, state := .active }

/-- R47: the state in which START QUEST has begun a quest. -/
theorem beginQuest_eq (s : State) (w : WorkItem) (q : Fin 32) :
    s.beginQuest w q 0 =
      ((s.updQuest q Quest.begun).bound q (s.stepRec (s.quest q).firstStep).timer).withTask w
        (if (s.stepRec (s.quest q).firstStep).trigger = none then .pass q else .nextVisit) := by
  have hquest := updQuest_self s q Quest.begun
  have hstep : s.stepRec (s.quest q).firstStep =
      (s.updQuest q Quest.begun).stepRec (((s.updQuest q Quest.begun).quest q).firstStep + 0) := by
    rw [hquest]
    rfl
  have hagain : (s.updQuest q Quest.begun).updQuest q (fun c => { c with current := 0 }) = s.updQuest q Quest.begun := by
    unfold State.updQuest at hquest ⊢
    simp only [hquest]
    simp [Quest.begun]
  calc
    s.beginQuest w q 0 = (s.updQuest q Quest.begun).enterStep w q 0 := rfl
    _ = _ := by rw [enterStep_bound hstep, hagain]

end

theorem runEngine_last_of_command {s : State} {w : WorkItem} {c : CmdState} {code : Nat} (htask : w.task = .nextVisit)
    (hvisits : w.visits = []) (hsource : w.source = .command code) :
    (s.setWork (some w) c).runEngine = s.setWork none (.reporting .ok 3 []) :=
  runParts_last_of_command (n := 0x3FFFFFF) htask hvisits hsource

theorem startQuest_eq {s : State} {words : List Word} {q : Fin 32} (hands : s.handsEngine 0x23 words)
    (hq : bits (wordAt words 2) 0 8 = q.val) (hdef : (s.quest q).state ≠ .vacant)
    (hrest : (s.quest q).state.running = false) (hvalid : s.validateQuest q = none) :
    s.startQuest words =
      (((s.updQuest q Quest.begun).bound q (s.stepRec (s.quest q).firstStep).timer).setWork
        (some
          { source := .command 0x23, depth := 0, player := s.page.turn.toNat % 16, visits := []
            task := if (s.stepRec (s.quest q).firstStep).trigger = none then .pass q else .nextVisit })
        (.dispatched words true)).runEngine := by
  rw [startQuest_begins hq hdef hrest hvalid, turnPlayer_eq, takeCommand_of_dispatched hands.1.1, beginQuest_eq]
  change State.runEngine
    (((State.setWork (s.updQuest q Quest.begun) s.work (.dispatched words true)).bound q _).withTask _ _) = _
  rw [setWork_bound, setWork_withTask]
  rfl

/-- Settles O32. -/
theorem startQuestEntersStepZero : Obligations.StartQuestEntersStepZero := by
  refine ⟨fun s q => ?valid, fun s words hands => ⟨fun hnum => ?_, fun q hq => ⟨fun hvacant => ?_, fun hrun => ?_,
    fun st hdef hrest hinvalid => ?_, fun u v hdef hrest hvalid hu hv => ?begins⟩⟩⟩
  case valid =>
    rw [validateQuest_eq]
    simp only [validateStep_eq]
    exact (firstFault_flatMap _ _).symm
  · rw [exec_startQuest_of_handsEngine hands, startQuest_outOfRange hnum]
    rfl
  · rw [exec_startQuest_of_handsEngine hands, startQuest_vacant hq hvacant]
    rfl
  · rw [exec_startQuest_of_handsEngine hands, startQuest_running hq hrun]
    rfl
  · rw [exec_startQuest_of_handsEngine hands, startQuest_invalid hq hdef hrest hinvalid]
    rfl
  case begins =>
    have hbound : (s.updQuest q Quest.begun).bound q (s.stepRec (s.quest q).firstStep).timer = v := by
      subst hu hv
      cases (s.stepRec (s.quest q).firstStep).timer <;> rfl
    rw [exec_startQuest_of_handsEngine hands, startQuest_eq hands hq hdef hrest hvalid, hbound]
    refine ⟨fun htrigger => ?_, fun htrigger => ?_⟩
    · rw [if_neg htrigger, runEngine_last_of_command rfl rfl rfl]
      rfl
    · rw [if_pos htrigger]
      rfl

/-! ### A WATCH trigger (R61, R65, R67) -/

section
variable {s : State} {v : Fin 64} {writer : Writer} {depth : Nat} {rest : List Trigger}

theorem exec_watchTriggerTake_of_waiting (hwork : s.work = none) (hwaits : s.engineCommandWaits = true) :
    exec .watchTriggerTake s = .next s := by
  change execWatchTriggerTake s = _
  simp [execWatchTriggerTake, engineReady_of_idle hwork, hwaits]

/-- The work item of a WATCH trigger. -/
def State.triggerItem (s : State) (v : Fin 64) (writer : Writer) (depth : Nat) (visits : List (Fin 32)) (task : Task) :
    WorkItem :=
  { source := .watch v writer depth, depth := depth, player := s.page.turn.toNat % 16, visits := visits, task := task }

theorem exec_watchTriggerTake_of_head (hwork : s.work = none) (hnowait : s.engineCommandWaits = false)
    (hqueue : s.queue = .watch v writer depth :: rest) :
    exec .watchTriggerTake s =
      .next (State.runEngine
        (State.setWork { s with queue := rest }
          (some (s.triggerItem v writer depth s.activeQuests .nextVisit)) s.cmd)).react := by
  change execWatchTriggerTake s = _
  simp only [execWatchTriggerTake, engineReady_of_idle hwork, hwork, hnowait, hqueue, State.takeWatchEntry, beginWork_eq,
    turnPlayer_eq]
  rfl

theorem activeQuests_eq {visits : List (Fin 32)} (hsorted : visits.Pairwise (fun p q => p < q))
    (hmem : ∀ q : Fin 32, q ∈ visits ↔ (s.quest q).state = .active) : s.activeQuests = visits := by
  have hactive : s.activeQuests.Pairwise (fun p q => p < q) := (List.sortedLT_finRange 32).pairwise.filter _
  refine hactive.eq_of_mem_iff hsorted fun q => ?_
  rw [hmem]
  simp [State.activeQuests]

theorem runEngine_last_of_trigger {w : WorkItem} {c : CmdState} (htask : w.task = .nextVisit) (hvisits : w.visits = [])
    (hsource : ∀ code, w.source ≠ .command code) : (s.setWork (some w) c).runEngine = s.setWork none c :=
  runParts_last_of_trigger (n := 0x3FFFFFF) htask hvisits hsource

theorem triggerItem_source (visits : List (Fin 32)) (task : Task) (code : Nat) :
    (s.triggerItem v writer depth visits task).source ≠ .command code := fun h => by cases h

theorem withQueue_idle (hwork : s.work = none) :
    State.setWork { s with queue := rest } none s.cmd = { s with queue := rest } := by
  unfold State.setWork
  rw [← hwork]

theorem exec_watchTriggerTake_of_none (hwork : s.work = none) (hnowait : s.engineCommandWaits = false)
    (hqueue : s.queue = .watch v writer depth :: rest) (hnone : ∀ q : Fin 32, (s.quest q).state ≠ .active) :
    exec .watchTriggerTake s = .next (State.react { s with queue := rest }) := by
  have hvisits : s.activeQuests = [] := activeQuests_eq List.Pairwise.nil fun q => by simp [hnone q]
  rw [exec_watchTriggerTake_of_head hwork hnowait hqueue, hvisits,
    runEngine_last_of_trigger rfl rfl (triggerItem_source _ _), withQueue_idle hwork]

/-- With one ACTIVE quest, the work item goes on with what the visit decides for it. -/
theorem exec_watchTriggerTake_of_one {q : Fin 32} (hwork : s.work = none) (hnowait : s.engineCommandWaits = false)
    (hqueue : s.queue = .watch v writer depth :: rest) (hactive : ∀ p : Fin 32, (s.quest p).state = .active ↔ p = q) :
    exec .watchTriggerTake s =
      .next (runParts 0x3FFFFFF
        (State.setWork { s with queue := rest }
          (some (s.triggerItem v writer depth [] (s.visitTask (s.triggerItem v writer depth [q] .nextVisit) q v)))
          s.cmd)).react := by
  have hvisits : s.activeQuests = [q] := activeQuests_eq (List.pairwise_singleton _ _) fun p => by
    rw [hactive, List.mem_singleton]
  rw [exec_watchTriggerTake_of_head hwork hnowait hqueue, hvisits, runEngine_setWork rfl, engineStep_nextVisit rfl,
    nextVisit_of_watch (rest := []) rfl rfl]
  rfl

/-- A visit that leaves the quest alone ends the work item. -/
theorem runParts_ignored {n : Nat} (hwork : s.work = none) :
    runParts (n + 1)
        (State.setWork { s with queue := rest } (some (s.triggerItem v writer depth [] .nextVisit)) s.cmd) =
      { s with queue := rest } := by
  rw [runParts_last_of_trigger rfl rfl (triggerItem_source _ _), withQueue_idle hwork]

end

/-! ### A pass without effects, notice and call (R31, R33, R35) -/

theorem release_quest_step (s : State) (q : Fin 32) (n : Nat) : (s.release q).stepRec n = s.stepRec n := by
  unfold State.stepRec
  rw [(after_release rfl q : EngineKeeps s (s.release q)).steps_eq]

section
variable {s : State} {w : WorkItem} {c : CmdState} {q : Fin 32}

theorem engineStep_setWork_pass (htask : w.task = .pass q) :
    (s.setWork (some w) c).engineStep w = (s.release q).setWork (some { w with task := .effects q 0 [] }) c := by
  rw [engineStep_pass htask, State.passStep, setWork_release, setWork_withTask]

theorem engineStep_setWork_effects {outs : List EffectResult} (htask : w.task = .effects q 0 outs)
    (hcount : (s.currentStep q).effectCount = 0) :
    (s.setWork (some w) c).engineStep w = s.setWork (some { w with task := .passed q outs }) c := by
  rw [engineStep_effects htask, requestEffect_none (s := s.setWork (some w) c) (Nat.le_of_eq hcount), setWork_withTask]

theorem passNoticed_quiet {outs : List EffectResult} (h : (s.currentStep q).notify = false) :
    s.passNoticed w q outs = s := by
  simp [State.passNoticed, h]

theorem engineStep_setWork_passed {outs : List EffectResult} (htask : w.task = .passed q outs)
    (hquiet : (s.currentStep q).notify = false) (hcall : (s.currentStep q).call = none) :
    (s.setWork (some w) c).engineStep w = s.setWork (some { w with task := .advance q .passed }) c := by
  have hsilent := passNoticed_quiet (s := s.setWork (some w) c) (w := w) (outs := outs) hquiet
  rw [engineStep_passed htask, finishPass_without_call (s := s.setWork (some w) c) hcall, hsilent, setWork_withTask]

theorem engineStep_setWork_advance {how : Ended} {st : StepRec} (htask : w.task = .advance q how)
    (hmore : (s.quest q).current + 1 < (s.quest q).stepCount)
    (hst : st = s.stepRec ((s.quest q).firstStep + ((s.quest q).current + 1))) (htrigger : st.trigger ≠ none)
    (htimer : st.timer = none) :
    (s.setWork (some w) c).engineStep w =
      (s.updQuest q (fun x => { x with current := x.current + 1 })).setWork (some { w with task := .nextVisit }) c := by
  have hsame : s.updQuest q (fun x => { x with current := (s.quest q).current + 1 }) =
      s.updQuest q (fun x => { x with current := x.current + 1 }) := updQuest_congr rfl
  rw [engineStep_advance htask, advanceQuest_enters (s := s.setWork (some w) c) hmore,
    enterStep_bound (s := s.setWork (some w) c) (i := ((s.setWork (some w) c).quest q).current + 1) hst, htimer,
    if_neg htrigger, State.bound, ← hsame]
  rfl

theorem runParts_bare_pass {n : Nat} {st : StepRec} (htask : w.task = .pass q) (hvisits : w.visits = [])
    (hsource : ∀ code, w.source ≠ .command code) (hcount : (s.currentStep q).effectCount = 0)
    (hquiet : (s.currentStep q).notify = false) (hcall : (s.currentStep q).call = none)
    (hmore : (s.quest q).current + 1 < (s.quest q).stepCount)
    (hst : st = s.stepRec ((s.quest q).firstStep + ((s.quest q).current + 1))) (htrigger : st.trigger ≠ none)
    (htimer : st.timer = none) :
    runParts (n + 5) (s.setWork (some w) c) =
      ((s.release q).updQuest q (fun x => { x with current := x.current + 1 })).setWork none c := by
  have hquest := release_quest_self s q
  have hstep := release_currentStep s q
  have hnext := release_quest_step s q
  rw [runParts_setWork_succ (n + 4) (by rw [htask]; rfl), engineStep_setWork_pass htask]
  generalize s.release q = r at hquest hstep hnext ⊢
  rw [← hstep] at hcount hquiet hcall
  have hst' : st = r.stepRec ((r.quest q).firstStep + ((r.quest q).current + 1)) := by rw [hnext, hquest]; exact hst
  have hmore' : (r.quest q).current + 1 < (r.quest q).stepCount := by rw [hquest]; exact hmore
  rw [runParts_setWork_succ (n + 3) rfl, engineStep_setWork_effects rfl hcount,
    runParts_setWork_succ (n + 2) rfl, engineStep_setWork_passed rfl hquiet hcall,
    runParts_setWork_succ (n + 1) rfl, engineStep_setWork_advance rfl hmore' hst' htrigger htimer]
  exact runParts_last_of_trigger rfl hvisits hsource

end

/-! ### The run of the engine (log 21) -/

theorem waits_eq_false {k : Task} (h : ∀ q i outs, k ≠ .awaiting q i outs) : k.waits = false := by
  cases k with
  | awaiting q i outs => exact absurd rfl (h q i outs)
  | _ => rfl

theorem engineReady_of_awaiting {s : State} {w : WorkItem} {q : Fin 32} {i : Nat} {outs : List EffectResult}
    (hwork : s.work = some w) (htask : w.task = .awaiting q i outs) : s.engineReady = false := by
  simp [State.engineReady, hwork, htask, Task.waits]

/-- Settles O36. -/
theorem watchTriggerVisitsTheActiveQuests : Obligations.WatchTriggerVisitsTheActiveQuests := by
  refine ⟨fun s => rfl, fun n s => ⟨rfl, fun hwork => runParts_settled n s (engineReady_of_idle hwork),
    fun w q i outs hwork htask => runParts_settled n s (engineReady_of_awaiting hwork htask),
    fun w hwork hgoes => runParts_succ n s w hwork (waits_eq_false hgoes)⟩, ?many,
    fun s v writer depth rest hwork hnowait hqueue => ⟨fun hnone =>
      exec_watchTriggerTake_of_none hwork hnowait hqueue hnone, fun q st counts hactive hst hcounts => ?one⟩,
    fun s hwork hwaits => exec_watchTriggerTake_of_waiting hwork hwaits⟩
  case many =>
    intro s v writer depth rest visits hwork hnowait hqueue hsorted hmem
    rw [exec_watchTriggerTake_of_head hwork hnowait hqueue, activeQuests_eq hsorted hmem]
    rfl
  case one =>
    subst hst
    have hstate : (s.quest q).state = .active := (hactive q).mpr rfl
    have hexec := exec_watchTriggerTake_of_one hwork hnowait hqueue hactive
    have hcounts' := (countsFor_iff (s := s) (q := q)
      (s.triggerItem v writer depth [q] .nextVisit).player).trans hcounts.symm
    have hlater := laterNames_iff (s := s) (q := q) v
    refine ⟨fun hno => ?_, fun hyes htrigger ⟨g, hguard, hfalse⟩ => ?_, fun hyes htrigger hignored => ?_,
      fun hyes htrigger horder hparent hnamed => ?fails, fun hyes htrigger hguard => ?passes⟩
    · rw [hexec, visitTask_uncounted (Bool.eq_false_iff.mpr fun hc => hno (hcounts'.mp hc))]
      exact congrArg (fun x : State => Host.Outcome.next x.react) (runParts_ignored (n := 0x3FFFFFE) hwork)
    · rw [hexec, visitTask_guarded hstate (hcounts'.mpr hyes) htrigger hguard hfalse]
      exact congrArg (fun x : State => Host.Outcome.next x.react) (runParts_ignored (n := 0x3FFFFFE) hwork)
    · have hordered : ¬((s.quest q).order = .strict ∧ s.laterNames q v = true) := by
        rintro ⟨hstrict, hnamed⟩
        obtain hloose | hnone := hignored
        · rw [hstrict] at hloose
          cases hloose
        · obtain ⟨i, hlow, hhigh, hi⟩ := hlater.mp hnamed
          exact hnone i hlow hhigh hi
      rw [hexec, visitTask_ignored hstate (hcounts'.mpr hyes) htrigger hordered]
      exact congrArg (fun x : State => Host.Outcome.next x.react) (runParts_ignored (n := 0x3FFFFFE) hwork)
    case fails =>
      have hparent' : (State.quest { s with queue := rest } q).parent = none := hparent
      have hfail := runParts_fail_of_trigger (s := { s with queue := rest }) (c := s.cmd) (q := q) (n := 0x3FFFFFD)
        (w := s.triggerItem v writer depth [] (.fail q .outOfOrder none none)) rfl rfl (triggerItem_source _ _) hparent
      rw [setWork_of_cmd (failed_cmd _ _ _ _ _)] at hfail
      rw [hexec, visitTask_outOfOrder hstate (hcounts'.mpr hyes) htrigger horder (hlater.mpr hnamed)]
      refine (congrArg (fun x : State => Host.Outcome.next x.react) hfail).trans ?_
      simp only [State.failed, hparent']
      rfl
    case passes =>
      have hpass := visitTask_matched hstate (hcounts'.mpr hyes) htrigger hguard
      refine ⟨by rw [hexec, hpass]; rfl, fun hcount hquiet hcall hmore hnext htimer => ?_⟩
      have hrun := runParts_bare_pass (s := { s with queue := rest }) (c := s.cmd) (q := q) (n := 0x3FFFFFA)
        (w := s.triggerItem v writer depth [] (.pass q)) rfl rfl (triggerItem_source _ _) hcount hquiet hcall hmore rfl
        hnext htimer
      have hcmd : ((State.release { s with queue := rest } q).updQuest q
          (fun x => { x with current := x.current + 1 })).cmd = s.cmd := by
        rw [updQuest_cmd, release_cmd]
      rw [setWork_of_cmd hcmd] at hrun
      rw [hexec, hpass]
      exact congrArg (fun x : State => Host.Outcome.next x.react) hrun

end Sys2Proof.Machine
end

section
/-! PROOFS. ABANDON QUEST: the failure of a chain from its bottom to its top (O34). -/

namespace Sys2Proof.Machine

open Sys2Proof

/-! ### The checks of ABANDON QUEST (R50) -/

section
variable {s : State} {words : List Word} {n : Fin 32}

theorem exec_abandonQuest_of_handsEngine (h : s.handsEngine 0x26 words) :
    exec .abandonQuest s = .next (s.abandonQuest words).react := by
  change execAbandonQuest s = _
  simp [execAbandonQuest, engineHanded_of_handsEngine h, done_eq]

theorem abandonQuest_outOfRange (h : 31 < bits (wordAt words 2) 0 8) :
    s.abandonQuest words = s.report .outOfRange [] := by
  simp [State.abandonQuest, questOf_eq_none h]

theorem abandonQuest_vacant (hn : bits (wordAt words 2) 0 8 = n.val) (h : (s.quest n).state = .vacant) :
    s.abandonQuest words = s.report .notDefined [] := by
  simp [State.abandonQuest, questOf_eq_some hn, h]

theorem abandonQuest_idle (hn : bits (wordAt words 2) 0 8 = n.val) (hdef : (s.quest n).state ≠ .vacant)
    (hrest : (s.quest n).state.running = false) : s.abandonQuest words = s.report .busy [] := by
  simp [State.abandonQuest, questOf_eq_some hn, hdef, hrest]

/-- The work item of an ABANDON QUEST of `n` whose chain begins with `b`. -/
def State.abandonItem (s : State) (b n : Fin 32) : WorkItem :=
  { source := .command 0x26, depth := 0, player := s.turnPlayer, visits := [],
    task := .fail b .abandoned none (some n) }

theorem exec_abandonQuest_running (hands : s.handsEngine 0x26 words) (hn : bits (wordAt words 2) 0 8 = n.val)
    (hrun : (s.quest n).state.running = true) :
    exec .abandonQuest s =
      .next (State.runEngine
        (s.setWork (some (s.abandonItem (s.bottomOf 32 n) n)) (.dispatched words true))).react := by
  have hdef : (s.quest n).state ≠ .vacant := fun hvacant => by
    rw [hvacant] at hrun
    cases hrun
  have hbegins : s.abandonQuest words =
      s.takeCommand.beginWork (.command 0x26) 0 s.turnPlayer [] (.fail (s.bottomOf 32 n) .abandoned none (some n)) := by
    simp [State.abandonQuest, questOf_eq_some hn, hdef, hrun]
  rw [exec_abandonQuest_of_handsEngine hands, hbegins, takeCommand_of_dispatched hands.1.1, beginWork_eq]
  rfl

end

/-! ### A chain from its bottom to its top (R79, R88) -/

/-- Each quest of the list names the next as its parent, and the last names none. -/
def State.Climbs (s : State) : List (Fin 32) → Prop
  | [] => True
  | [q] => (s.quest q).parent = none
  | q :: p :: rest => (s.quest q).parent = some p ∧ s.Climbs (p :: rest)

theorem Climbs.congr {s t : State} {chain : List (Fin 32)} (h : s.Climbs chain)
    (hsame : ∀ q ∈ chain, (t.quest q).parent = (s.quest q).parent) : t.Climbs chain := by
  induction chain with
  | nil => trivial
  | cons q rest ih =>
    cases rest with
    | nil => exact (hsame q (List.mem_singleton_self q)).trans h
    | cons p rest =>
      obtain ⟨hparent, hrest⟩ := h
      exact ⟨(hsame q List.mem_cons_self).trans hparent, ih hrest fun x hx => hsame x (List.mem_cons_of_mem q hx)⟩

theorem climbs_of_links {s : State} {chain : List (Fin 32)}
    (hlinks : ∀ (i : Nat) (c p : Fin 32), chain[i]? = some c → chain[i + 1]? = some p → (s.quest c).parent = some p)
    (htop : ∀ q, chain.getLast? = some q → (s.quest q).parent = none) : s.Climbs chain := by
  induction chain with
  | nil => trivial
  | cons q rest ih =>
    cases rest with
    | nil => exact htop q rfl
    | cons p rest =>
      exact ⟨hlinks 0 q p rfl rfl, ih (fun i => hlinks (i + 1)) fun x hx => htop x (by rwa [List.getLast?_cons_cons])⟩

/-- R88: from any quest of a chain, the child links lead to its bottom. -/
theorem bottomOf_eq_bottom {s : State} {chain : List (Fin 32)} {b : Fin 32}
    (hlinks : ∀ (i : Nat) (c p : Fin 32), chain[i]? = some c → chain[i + 1]? = some p → (s.quest p).child = some c)
    (hbottom : chain[0]? = some b) (hlast : (s.quest b).child = none) (m : Nat) {k : Nat} {n : Fin 32} (hk : m ≤ k)
    (hn : chain[m]? = some n) : s.bottomOf k n = b := by
  induction m generalizing k n with
  | zero =>
    obtain rfl : b = n := Option.some.inj (hbottom.symm.trans hn)
    cases k with
    | zero => rfl
    | succ k => simp only [State.bottomOf, hlast]
  | succ m ih =>
    obtain ⟨k, rfl⟩ : ∃ j, k = j + 1 := ⟨k - 1, by omega⟩
    obtain ⟨hm, -⟩ := List.getElem?_eq_some_iff.mp hn
    have hbelow : chain[m]? = some chain[m] := List.getElem?_eq_getElem (Nat.lt_of_succ_lt hm)
    simp only [State.bottomOf, hlinks m _ n hbelow hn]
    exact ih (Nat.le_of_succ_le_succ hk) hbelow

/-! ### The reasons along a chain (R87, R89) -/

/-- The reasons with which the quests of a chain fail, when its bottom fails with the first of them. -/
def failReasons (reason : FailReason) (upTo : Option (Fin 32)) : List (Fin 32) → List FailReason
  | [] => []
  | q :: rest => reason :: failReasons (parentFailure q upTo).1 (parentFailure q upTo).2 rest

theorem failReasons_reached {chain : List (Fin 32)} {i : Nat} (hi : i < chain.length) :
    (failReasons .childFailed none chain)[i]? = some .childFailed := by
  induction chain generalizing i with
  | nil => exact absurd hi (Nat.not_lt_zero i)
  | cons q rest ih =>
    cases i with
    | zero => rfl
    | succ i => exact ih (Nat.lt_of_succ_lt_succ hi)

theorem failReasons_abandoned {chain : List (Fin 32)} (hdistinct : chain.Nodup) {m i : Nat} {n : Fin 32}
    (hn : chain[m]? = some n) (hi : i < chain.length) :
    (failReasons .abandoned (some n) chain)[i]? = some (if i ≤ m then .abandoned else .childFailed) := by
  induction chain generalizing i m with
  | nil => exact absurd hi (Nat.not_lt_zero i)
  | cons q rest ih =>
    obtain ⟨hfresh, hdistinct⟩ := List.nodup_cons.mp hdistinct
    cases i with
    | zero => rw [if_pos (Nat.zero_le m)]; rfl
    | succ i =>
      have hi := Nat.lt_of_succ_lt_succ hi
      cases m with
      | zero =>
        obtain rfl : q = n := Option.some.inj hn
        rw [failReasons, parentFailure_reached (.inr rfl), if_neg (Nat.not_succ_le_zero i)]
        exact failReasons_reached hi
      | succ m =>
        have hne : n ≠ q := fun heq => hfresh (heq ▸ List.mem_of_getElem? hn)
        rw [failReasons, parentFailure_below hne]
        simpa using ih hdistinct hn hi

/-! ### The failure of a chain -/

/-- R40, R89: a quest that has failed within a chain. -/
def Quest.toppled (c : Quest) (reason : FailReason) : Quest :=
  { c with state := .failed, reason := some reason, late := false, parent := none, child := none, bound := none }

theorem Quest.toppled_of_bottom {c : Quest} {reason : FailReason} (h : c.child = none) :
    c.toppled reason =
      { c with state := .failed, reason := some reason, late := false, parent := none, bound := none } := by
  simp [Quest.toppled, h]

theorem Quest.toppled_of_top {c : Quest} {reason : FailReason} (h : c.parent = none) :
    c.toppled reason =
      { c with state := .failed, reason := some reason, late := false, child := none, bound := none } := by
  simp [Quest.toppled, h]

theorem Quest.toppled_of_alone {c : Quest} {reason : FailReason} (hparent : c.parent = none) (hchild : c.child = none) :
    c.toppled reason = { c with state := .failed, reason := some reason, late := false, bound := none } := by
  simp [Quest.toppled, hparent, hchild]

section
variable (s : State) (source : Source) (q : Fin 32) (reason : FailReason) (timer : Option (Fin 8))

theorem failed_quest_self :
    (s.failed source q reason timer).quest q =
      { s.quest q with bound := none, reason := some reason, state := .failed, late := false } := by
  unfold State.failed
  rw [updQuest_self, handNotice_quest, failing_quest]

theorem failed_quest_other {p : Fin 32} (h : p ≠ q) : (s.failed source q reason timer).quest p = s.quest p := by
  unfold State.failed
  rw [updQuest_other _ _ _ _ h, handNotice_quest, updQuest_other _ _ _ _ h, release_quest_other _ _ _ h]

/-- R87: the links between a failed quest and its parent are cleared. -/
def State.unlinked (s : State) (q p : Fin 32) : State :=
  (s.updQuest q (fun c => { c with parent := none })).updQuest p (fun c => { c with child := none })

end

theorem unlinked_quest_parent (s : State) {q p : Fin 32} (h : p ≠ q) :
    (s.unlinked q p).quest p = { s.quest p with child := none } := by
  unfold State.unlinked
  rw [updQuest_self, updQuest_other _ _ _ _ h]

theorem unlinked_quest_child (s : State) {q p : Fin 32} (h : p ≠ q) :
    (s.unlinked q p).quest q = { s.quest q with parent := none } := by
  unfold State.unlinked
  rw [updQuest_other _ _ _ _ (Ne.symm h), updQuest_self]

theorem unlinked_quest_other (s : State) {q p x : Fin 32} (hq : x ≠ q) (hp : x ≠ p) :
    (s.unlinked q p).quest x = s.quest x := by
  unfold State.unlinked
  rw [updQuest_other _ _ _ _ hp, updQuest_other _ _ _ _ hq]

/-- The state after a chain has failed: its quests with these reasons, and every other quest as it was. -/
def State.Topples (s t : State) (chain : List (Fin 32)) (reasons : List FailReason) : Prop :=
  (∀ (i : Nat) (q : Fin 32) (r : FailReason), chain[i]? = some q → reasons[i]? = some r →
    t.quest q = (s.quest q).toppled r)
  ∧ ∀ q, q ∉ chain → t.quest q = s.quest q

/-- A failure at the bottom of a chain travels to its top, and the command's work item ends. -/
theorem runParts_failChain (chain : List (Fin 32)) {s : State} {w : WorkItem} {c : CmdState} {q : Fin 32} {code n : Nat}
    {reason : FailReason} {timer : Option (Fin 8)} {upTo : Option (Fin 32)}
    (htask : w.task = .fail q reason timer upTo) (hvisits : w.visits = []) (hsource : w.source = .command code)
    (hdistinct : (q :: chain).Nodup) (hclimbs : s.Climbs (q :: chain)) (hbottom : (s.quest q).child = none)
    (hfuel : chain.length + 2 ≤ n) :
    ∃ t, runParts n (s.setWork (some w) c) = t.setWork none (.reporting .ok 3 [])
      ∧ s.Topples t (q :: chain) (failReasons reason upTo (q :: chain)) := by
  induction chain generalizing s w q n reason timer upTo with
  | nil =>
    obtain ⟨n, rfl⟩ : ∃ j, n = j + 2 := ⟨n - 2, by simp at hfuel; omega⟩
    have hparent : (s.quest q).parent = none := hclimbs
    refine ⟨_, runParts_fail_of_command htask hvisits hsource hparent, fun i p r hp hr => ?_, fun p hp => ?_⟩
    · cases i with
      | succ i => cases hp
      | zero =>
        cases hp
        cases hr
        rw [failed_quest_self, Quest.toppled_of_alone hparent hbottom]
    · exact failed_quest_other _ _ _ _ _ fun heq => hp (heq ▸ List.mem_singleton_self q)
  | cons p rest ih =>
    obtain ⟨n, rfl⟩ : ∃ j, n = j + 1 := ⟨n - 1, by omega⟩
    obtain ⟨hfresh, hdistinct⟩ := List.nodup_cons.mp hdistinct
    obtain ⟨hparent, hrest⟩ := hclimbs
    have hne : p ≠ q := fun heq => hfresh (heq ▸ List.mem_cons_self)
    have hpass (x : Fin 32) (hx : x ≠ q) := failed_quest_other s w.source q reason timer hx
    have hfailed := failed_quest_self s w.source q reason timer
    have hstep : (s.setWork (some w) c).engineStep w =
        ((s.failed w.source q reason timer).unlinked q p).setWork
          (some { w with task := .fail p (parentFailure q upTo).1 none (parentFailure q upTo).2 }) c := by
      rw [engineStep_fail htask, failQuest_linked (s := s.setWork (some w) c) hparent, setWork_failed, setWork_updQuest,
        setWork_updQuest, setWork_withTask]
      rfl
    rw [runParts_setWork_succ n (by rw [htask]; rfl), hstep]
    generalize s.failed w.source q reason timer = u at hpass hfailed ⊢
    have hother (x : Fin 32) (hxq : x ≠ q) (hxp : x ≠ p) : (u.unlinked q p).quest x = s.quest x :=
      (unlinked_quest_other u hxq hxp).trans (hpass x hxq)
    have habove : (u.unlinked q p).quest p = { s.quest p with child := none } := by
      rw [unlinked_quest_parent u hne, hpass p hne]
    have hclimbs : (u.unlinked q p).Climbs (p :: rest) := Climbs.congr hrest fun x hx => by
      by_cases hxp : x = p
      · rw [hxp, habove]
      · rw [hother x (fun heq => hfresh (heq ▸ hx)) hxp]
    obtain ⟨t, hrun, htop, hkeep⟩ := ih (n := n)
      (w := { w with task := .fail p (parentFailure q upTo).1 none (parentFailure q upTo).2 }) rfl hvisits hsource
      hdistinct hclimbs
      (by rw [habove]) (by rw [List.length_cons] at hfuel; omega)
    refine ⟨t, hrun, fun i x r hx hr => ?_, fun x hx => ?_⟩
    · cases i with
      | zero =>
        cases hx
        cases hr
        rw [hkeep q hfresh, unlinked_quest_child u hne, hfailed, Quest.toppled_of_bottom hbottom]
      | succ i =>
        have hmem : x ∈ p :: rest := List.mem_of_getElem? hx
        rw [htop i x r hx hr]
        by_cases hxp : x = p
        · rw [hxp, habove]
          rfl
        · rw [hother x (fun heq => hfresh (heq ▸ hmem)) hxp]
    · obtain ⟨hxq, hxrest⟩ := not_or.mp fun h => hx (List.mem_cons.mpr h)
      rw [hkeep x hxrest, hother x hxq (List.ne_of_not_mem_cons hxrest)]

theorem bottom_of_getElem? {chain : List (Fin 32)} {m : Nat} {n : Fin 32} (h : chain[m]? = some n) :
    ∃ b rest, chain = b :: rest := by
  cases chain with
  | nil => cases h
  | cons b rest => exact ⟨b, rest, rfl⟩

/-- ABANDON QUEST on a quest of a chain given from its bottom to its top. -/
theorem exec_abandonQuest_chain {s : State} {words : List Word} {n : Fin 32} {chain : List (Fin 32)} {m : Nat}
    (hands : s.handsEngine 0x26 words) (hn : bits (wordAt words 2) 0 8 = n.val)
    (hrun : (s.quest n).state.running = true) (hdistinct : chain.Nodup) (hlength : chain.length ≤ 4)
    (hmember : chain[m]? = some n)
    (hparents : ∀ (i : Nat) (c p : Fin 32), chain[i]? = some c → chain[i + 1]? = some p → (s.quest c).parent = some p)
    (hchildren : ∀ (i : Nat) (c p : Fin 32), chain[i]? = some c → chain[i + 1]? = some p → (s.quest p).child = some c)
    (hbottom : ∀ q, chain[0]? = some q → (s.quest q).child = none)
    (htop : ∀ q, chain.getLast? = some q → (s.quest q).parent = none) :
    ∃ t, exec .abandonQuest s = .next t
      ∧ (∀ i q, chain[i]? = some q →
          t.quest q = (s.quest q).toppled (if i ≤ m then .abandoned else .childFailed))
      ∧ (∀ q : Fin 32, q ∉ chain → t.quest q = s.quest q)
      ∧ t.work = none ∧ t.cmd = .reporting .ok 3 [] := by
  have hm : m < chain.length := (List.getElem?_eq_some_iff.mp hmember).1
  obtain ⟨b, rest, hchain⟩ := bottom_of_getElem? hmember
  have hfirst : chain[0]? = some b := by rw [hchain]; rfl
  have hlast := hbottom b hfirst
  have hbelow := bottomOf_eq_bottom hchildren hfirst hlast m (k := 32) (by omega) hmember
  have hclimbs := climbs_of_links hparents htop
  rw [exec_abandonQuest_running hands hn hrun, hbelow]
  have hfuel : rest.length + 2 ≤ 0x4000000 := by
    rw [hchain, List.length_cons] at hlength
    omega
  rw [hchain] at hdistinct hclimbs
  obtain ⟨t, hends, htoppled, hkept⟩ :=
    runParts_failChain rest (w := s.abandonItem b n) (c := .dispatched words true) rfl rfl rfl hdistinct hclimbs hlast hfuel
  rw [← hchain] at htoppled hkept hdistinct
  refine ⟨_, congrArg (fun x : State => Host.Outcome.next x.react) hends, fun i q hq => ?_, fun q hq => ?_, ?_, ?_⟩
  · have hi : i < chain.length := (List.getElem?_eq_some_iff.mp hq).1
    have hquest := htoppled i q _ hq (failReasons_abandoned hdistinct hmember hi)
    unfold State.quest at hquest ⊢
    rw [react_quests]
    exact hquest
  · have hquest := hkept q hq
    unfold State.quest at hquest ⊢
    rw [react_quests]
    exact hquest
  · rw [react_work]
    rfl
  · rw [react_cmd]
    rfl

/-- Settles O34. -/
theorem abandonQuestFailsTheChain : Obligations.AbandonQuestFailsTheChain := by
  refine ⟨?chain, fun s words hands => ⟨fun hnum => ?_, fun n hn => ⟨fun hvacant => ?_, fun hdef hrest => ?_,
    fun hrun hparent hchild => ?alone, fun p c hne hnamed hrun hdown hup htop hbottom => ?two⟩⟩⟩
  case chain =>
    intro s words n chain m hands hn hrun hdistinct hlength hmember hlinks hbottom htop
    exact exec_abandonQuest_chain hands hn hrun hdistinct hlength hmember (fun i c p hc hp => (hlinks i c p hc hp).1)
      (fun i c p hc hp => (hlinks i c p hc hp).2) hbottom htop
  · rw [exec_abandonQuest_of_handsEngine hands, abandonQuest_outOfRange hnum]
    rfl
  · rw [exec_abandonQuest_of_handsEngine hands, abandonQuest_vacant hn hvacant]
    rfl
  · rw [exec_abandonQuest_of_handsEngine hands, abandonQuest_idle hn hdef hrest]
    rfl
  case alone =>
    have hbelow : s.bottomOf 32 n = n := by simp only [State.bottomOf, hchild]
    have hends := runParts_fail_of_command (s := s) (w := s.abandonItem n n) (c := .dispatched words true) (q := n)
      (n := 0x3FFFFFE) rfl rfl rfl hparent
    rw [exec_abandonQuest_running hands hn hrun, hbelow]
    refine (congrArg (fun x : State => Host.Outcome.next x.react) hends).trans ?_
    simp only [State.failed, hparent, hchild]
    rfl
  case two =>
    have hlinks (i : Nat) (x y : Fin 32) (hx : [c, p][i]? = some x) (hy : [c, p][i + 1]? = some y) : x = c ∧ y = p := by
      match i with
      | 0 =>
        cases hx
        cases hy
        exact ⟨rfl, rfl⟩
      | i + 1 => cases hy
    have hmember : [c, p][if n = p then 1 else 0]? = some n := by
      obtain rfl | rfl := hnamed
      · rw [if_pos rfl]
        rfl
      · rw [if_neg (Ne.symm hne)]
        rfl
    obtain ⟨t, hexec, htoppled, hkept, hwork, hcmd⟩ := exec_abandonQuest_chain (chain := [c, p]) hands hn hrun
      (by simpa using Ne.symm hne) (by simp) hmember
      (fun i x y hx hy => by obtain ⟨rfl, rfl⟩ := hlinks i x y hx hy; exact hup)
      (fun i x y hx hy => by obtain ⟨rfl, rfl⟩ := hlinks i x y hx hy; exact hdown)
      (fun x hx => by cases hx; exact hbottom) (fun x hx => by cases hx; exact htop)
    refine ⟨t, hexec, ?_, ?_, fun q hqp hqc => hkept q (by simp [hqp, hqc]), hwork, hcmd⟩
    · rw [htoppled 0 c rfl, if_pos (Nat.zero_le _), Quest.toppled_of_bottom hbottom]
    · rw [htoppled 1 p rfl, Quest.toppled_of_top htop]
      by_cases hp : n = p
      · simp only [hp, if_true, Nat.le_refl]
      · simp only [if_neg hp]
        rfl

end Sys2Proof.Machine
end

section
/-! PROOFS. The writes of a publication (O44), and the answer of the command unit (O49). -/

namespace Sys2Proof.Machine

open Sys2Proof

/-! ### The fault word (12.1) -/

/-- The code of a direction (12.1). -/
def directionCode : Direction → Nat
  | .read => 0
  | .write => 1

theorem directionCode_lt (d : Direction) : directionCode d < 2 ^ 1 := by cases d <;> decide

theorem Writer.code_lt (w : Writer) : w.code < 2 ^ 2 := by cases w <;> decide

theorem FaultRec.word_eq (f : FaultRec) :
    f.word =
      BitVec.ofNat 32
        (fieldAt 0 24 f.addr.toNat + fieldAt 24 1 (directionCode f.dir) + fieldAt 28 2 f.writer.code) := by
  unfold FaultRec.word directionCode
  cases f.dir <;> rfl

theorem FaultRec.word_fields (f : FaultRec) :
    bits f.word 0 24 = f.addr.toNat ∧ bits f.word 24 1 = directionCode f.dir ∧ bits f.word 25 3 = 0
      ∧ bits f.word 28 2 = f.writer.code ∧ bits f.word 30 2 = 0 := by
  have haddr := f.addr.isLt
  have hdir := directionCode_lt f.dir
  have hwriter := f.writer.code_lt
  refine ⟨?_, ?_, ?_, ?_, ?_⟩
  all_goals
    rw [FaultRec.word_eq, bits_ofNat _ (by decide)]
    simp only [fieldAt]
    omega

/-! ### The steps that make the writes -/

theorem exec_faultWordWrite_of_granted {s : State} (h : s.mpa.port = some (.ir .faultWrite)) :
    exec .faultWordWrite s = .next s.endIRGrant.publishFault.react := by
  change execFaultWordWrite s = _
  simp [execFaultWordWrite, h, done_eq]

theorem exec_causeWordPublish_of_granted {s : State} (h : s.mpa.port = some (.ir .causeWrite)) :
    exec .causeWordPublish s = .next s.endIRGrant.publishCauses.react := by
  change execCauseWordPublish s = _
  simp [execCauseWordPublish, h, done_eq]

theorem exec_vectorWordPublish_of_granted {s : State} (h : s.mpa.port = some (.ir .vectorWrite)) :
    exec .vectorWordPublish s = .next s.endIRGrant.publishVector.react := by
  change execVectorWordPublish s = _
  simp [execVectorWordPublish, h, done_eq]

theorem exec_warmResetCauseWrite_of_granted {s : State} (h : s.mpa.port = some (.ir .resetWrite)) :
    exec .warmResetCauseWrite s = .next s.endIRGrant.resetCauseWrite.react := by
  change execWarmResetCauseWrite s = _
  simp [execWarmResetCauseWrite, h, done_eq]

theorem exec_resultWordWrite_of_granted {s : State} {st : Status} {next : Nat} {rs : List Word}
    (h : s.mpa.port = some (.ir .resultWrite)) (hcmd : s.cmd = .reporting st next rs) :
    exec .resultWordWrite s = .next (s.endIRGrant.writeResult st next rs).react := by
  change execResultWordWrite s = _
  simp [execResultWordWrite, h, hcmd, done_eq]

theorem exec_statusWordWrite_of_granted {s : State} {st : Status} {next : Nat} {rs : List Word}
    (h : s.mpa.port = some (.ir .statusWrite)) (hcmd : s.cmd = .reporting st next rs) :
    exec .statusWordWrite s = .next (s.endIRGrant.writeStatus st).react := by
  change execStatusWordWrite s = _
  simp [execStatusWordWrite, h, hcmd, done_eq]

theorem exec_consumeIndexWrite_of_granted {s : State} (h : s.mpa.port = some (.ir .consumeWrite)) :
    exec .consumeIndexWrite s = .next s.endIRGrant.writeConsume.react := by
  change execConsumeIndexWrite s = _
  simp [execConsumeIndexWrite, h, done_eq]

/-! ### The publication (R156, R169, R171, R173) -/

theorem causeRequest_raising {s : State} (h : s.cause.publication = .raising) :
    s.causeRequest = if s.fault = s.cause.lastFault then some .causeWrite else some .faultWrite := by
  simp only [State.causeRequest, h]

/-- A set of causes has none, or a highest one. -/
theorem causes_none_or_highest (c : CauseSet) :
    (∀ i, i < 15 → c.getLsbD i = false)
      ∨ ∃ k, k < 15 ∧ c.getLsbD k = true ∧ ∀ i, k < i → i < 15 → c.getLsbD i = false := by
  refine or_iff_not_imp_left.mpr fun hsome => ?_
  push Not at hsome
  obtain ⟨i, hi, hbit⟩ := hsome
  have hbit : c.getLsbD i = true := by simpa using hbit
  have hbound := Nat.findGreatest_le (P := fun j => c.getLsbD j = true) 14
  refine ⟨Nat.findGreatest (fun j => c.getLsbD j = true) 14, by omega,
    Nat.findGreatest_spec (P := fun j => c.getLsbD j = true) (Nat.le_of_lt_succ hi) hbit, fun j hj hj15 => ?_⟩
  rw [← Bool.not_eq_true]
  exact Nat.findGreatest_is_greatest hj (Nat.le_of_lt_succ hj15)

theorem vectorNow_eq {s : State} {n : Nat}
    (hnone : (∀ i, i < 15 → (s.cause.working &&& s.cause.handed).getLsbD i = false) → n = 0)
    (hhighest : ∀ k, k < 15 → (s.cause.working &&& s.cause.handed).getLsbD k = true →
      (∀ i, k < i → i < 15 → (s.cause.working &&& s.cause.handed).getLsbD i = false) → n = k + 1) :
    s.vectorNow = n := by
  unfold State.vectorNow
  obtain h | ⟨k, hk, hbit, habove⟩ := causes_none_or_highest (s.cause.working &&& s.cause.handed)
  · rw [highestCause_of_none h, hnone h]
  · rw [highestCause_of_highest hk hbit habove, hhighest k hk hbit habove]

theorem resetCauseWrite_cause {s : State} (h : s.cause.publication = .resetCause) :
    s.resetCauseWrite =
      { s.partWrite (s.pageAddr causeOff) 0 with cause := { s.cause with publication := .resetVector } } := by
  simp only [State.resetCauseWrite, h]
  rfl

theorem resetCauseWrite_vector {s : State} (h : s.cause.publication = .resetVector) :
    s.resetCauseWrite =
      { s.partWrite (s.pageAddr vectorOff) 0 with cause := { s.cause with publication := .idle } } := by
  simp only [State.resetCauseWrite, h]
  rfl

/-- Settles O44. -/
theorem publicationWritesFaultCauseAndVector : Obligations.PublicationWritesFaultCauseAndVector := by
  refine ⟨fun f => ?word, fun s hraising => ⟨fun hnew => ?_, fun hsame => ?_⟩, fun s v hv => ⟨fun hport => ?fault,
    fun hport => ?cause, fun hport n hnone hhighest => ?vector, fun hport => ⟨fun hpub => ?_, fun hpub => ?_⟩⟩⟩
  case word =>
    obtain ⟨haddr, hdir, hgap, hwriter, htop⟩ := f.word_fields
    refine ⟨haddr, hdir.trans ?_, hgap, hwriter.trans ?_, htop⟩
    · cases f.dir <;> rfl
    · cases f.writer <;> rfl
  · rw [causeRequest_raising hraising, if_neg hnew]
  · rw [causeRequest_raising hraising, if_pos hsame]
  all_goals subst hv
  case fault => exact exec_faultWordWrite_of_granted hport
  case cause => exact exec_causeWordPublish_of_granted hport
  case vector =>
    have hn := vectorNow_eq hnone hhighest
    subst hn
    exact exec_vectorWordPublish_of_granted hport
  · rw [exec_warmResetCauseWrite_of_granted hport, resetCauseWrite_cause (s := s.endIRGrant) hpub]
    rfl
  · rw [exec_warmResetCauseWrite_of_granted hport, resetCauseWrite_vector (s := s.endIRGrant) hpub]
    rfl

/-! ### The answer (R158, R176, R180, R181) -/

theorem slotAddr_eq (s : State) (k : Nat) : s.slotAddr k = s.pageBase + 0x800 + 64 * s.consumeIndex + 4 * k := rfl

theorem statusWord_eq (st : Status) : statusWord st = BitVec.ofNat 32 (st.code + 0x80000000) := by
  cases st <;> rfl

theorem installRegion_pendingRegion (s : State) : s.installRegion.pendingRegion = none := by
  unfold State.installRegion
  split
  · next h => exact h
  · rfl

theorem compareIndexes_cmd (s : State) :
    s.compareIndexes = { s with cmd := if s.consumeIndex = s.page.produce then .idle else .fetching [] } := by
  unfold State.compareIndexes
  split <;> rfl

/-- Settles O49. -/
theorem answerIsWrittenThenTheIndexAdvances : Obligations.AnswerIsWrittenThenTheIndexAdvances := by
  refine ⟨rfl, fun s v hv => ?_⟩
  subst hv
  refine ⟨fun st next r rest hport hcmd => ?result, fun st next hport hcmd => ?status, fun hport => ?consume⟩
  case result =>
    rw [exec_resultWordWrite_of_granted hport hcmd, State.writeResult, slotAddr_eq]
    rfl
  case status =>
    have hregions : s.endIRGrant.installRegion.regions =
        match s.pendingRegion with
        | none => s.regions
        | some c => s.regions.set c.1.val c.2 c.1.isLt := by
      unfold State.installRegion
      cases h : s.endIRGrant.pendingRegion with
      | none =>
        have hnone : s.pendingRegion = none := h
        rw [hnone]
        rfl
      | some c =>
        have hsome : s.pendingRegion = some c := h
        rw [hsome]
        rfl
    rw [exec_statusWordWrite_of_granted hport hcmd, writeStatus_eq, hregions, installRegion_pendingRegion, statusWord_eq,
      slotAddr_eq]
    rfl
  case consume =>
    rw [exec_consumeIndexWrite_of_granted hport, State.writeConsume, compareIndexes_cmd]
    rfl

end Sys2Proof.Machine
end

section
/-! PROOFS. The notice writer (O45, O46), and SET NOTICE RING (O47). -/

namespace Sys2Proof.Machine

open Sys2Proof

/-! ### Held or lost, and the examination of the ring (O45) -/

theorem handNotice_held {s : State} (n : Notice) (h : s.notice.hold.length < 8) :
    s.handNotice n =
      State.examineRing
        { s with notice := { s.notice with hold := s.notice.hold ++ [{ n with turn := s.page.turn }] } } :=
  if_pos h

theorem handNotice_lost {s : State} (n : Notice) (h : 8 ≤ s.notice.hold.length) :
    s.handNotice n = s.raise causeNoticeLost :=
  if_neg (Nat.not_lt.mpr h)

theorem examineRing_takes {s : State} {n : Notice} {rest : List Notice} (hidle : s.notice.writer = .idle)
    (hhold : s.notice.hold = n :: rest) (hset : s.notice.ringSet = true)
    (hroom : (s.notice.produce + 1) % s.notice.size ≠ s.page.consume) (hwrites : s.notice.indexWrites = 0)
    (hpending : s.notice.pendingConfig = none) :
    s.examineRing = { s with notice := { s.notice with hold := rest, element := some n, writer := .writing 0 } } := by
  have hfree : s.ringRoom = true := bne_iff_ne.mpr hroom
  simp [State.examineRing, hidle, hhold, hset, hfree, hwrites, hpending]

theorem examineRing_waits {s : State}
    (h : s.notice.writer ≠ .idle ∨ s.notice.hold = [] ∨ s.notice.ringSet = false
      ∨ (s.notice.produce + 1) % s.notice.size = s.page.consume ∨ s.notice.indexWrites ≠ 0
      ∨ s.notice.pendingConfig ≠ none) : s.examineRing = s := by
  cases hwriter : s.notice.writer with
  | writing k => simp only [State.examineRing, hwriter]
  | publishing => simp only [State.examineRing, hwriter]
  | idle =>
    cases hhold : s.notice.hold with
    | nil => simp only [State.examineRing, hwriter, hhold]
    | cons n rest =>
      have hclosed : ¬(s.notice.ringSet && s.ringRoom && s.notice.indexWrites == 0
          && s.notice.pendingConfig.isNone) = true := by
        simp only [hwriter, hhold, ne_eq, not_true, reduceCtorEq, false_or] at h
        simp only [State.ringRoom, Bool.and_eq_true, bne_iff_ne, beq_iff_eq, Option.isNone_iff_eq_none]
        rintro ⟨⟨⟨hset, hroom⟩, hwrites⟩, hpending⟩
        obtain h | h | h | h := h
        · rw [hset] at h
          cases h
        · exact hroom h
        · exact h hwrites
        · exact h hpending
      simp only [State.examineRing, hwriter, hhold, if_neg hclosed]

/-- Settles O45. -/
theorem noticesAreHeldOrLost : Obligations.NoticesAreHeldOrLost :=
  ⟨fun _ n => ⟨fun h => handNotice_held n h, fun h => handNotice_lost n h⟩,
    fun _ => ⟨fun _ _ hidle hhold hset hroom hwrites hpending =>
      examineRing_takes hidle hhold hset hroom hwrites hpending, fun h => examineRing_waits h⟩⟩

/-! ### The words of an element (R186, 12.8) -/

/-- The field of a notice's step: all ones where it names none. -/
def Notice.stepCode (n : Notice) : Nat :=
  match n.step with
  | some i => i
  | none => 0xF

/-- The field of a notice's owner. -/
def Notice.ownerCode (n : Notice) : Nat :=
  match n.owner with
  | some o => o.code
  | none => 0xF

/-- The field that says how a step ended. -/
def Notice.endedCode (n : Notice) : Nat :=
  match n.ended with
  | some e => e.code
  | none => 3

/-- The field that says how the offer of a firing ended. -/
def Notice.offerCode (n : Notice) : Nat :=
  match n.offer with
  | some o => o.code
  | none => 3

/-- The field of one effect's outcome. -/
def outcomeCode (l : List EffectStatus) (i : Nat) : Nat :=
  match l[i]? with
  | some x => x.code
  | none => 3

/-- Word 0 of an element. -/
def Notice.headWord (n : Notice) : Word :=
  BitVec.ofNat 32
    (fieldAt 0 3 n.kind.code + fieldAt 8 8 n.number + fieldAt 16 4 n.stepCode + fieldAt 24 4 n.ownerCode)

/-- Word 2 of an element. -/
def Notice.outcomeWord (n : Notice) : Word :=
  BitVec.ofNat 32
    (fieldAt 0 8 (statusesCode n.statuses) + fieldAt 8 2 n.endedCode + fieldAt 12 3 (reasonCode n.reason)
      + fieldAt 16 4 (timerCode n.timer) + fieldAt 20 2 n.offerCode)

/-- Word 7 of an element. -/
def Notice.linkWord (n : Notice) : Word :=
  BitVec.ofNat 32 (fieldAt 0 8 (questCode n.parent) + fieldAt 8 8 (questCode n.child) + fieldAt 16 2 n.depth)

theorem Notice.words_eq (n : Notice) :
    n.words =
      [n.headWord, n.tag, n.outcomeWord, n.old, n.new, BitVec.ofNat 32 (sourceWord n.source), n.turn, n.linkWord] := by
  unfold Notice.words Notice.headWord Notice.outcomeWord Notice.linkWord Notice.stepCode Notice.ownerCode
    Notice.endedCode Notice.offerCode
  cases n.step <;> cases n.owner <;> cases n.ended <;> cases n.offer <;> rfl

theorem NoticeKind.code_lt (k : NoticeKind) : k.code < 2 ^ 3 := by cases k <;> decide

theorem Ended.code_lt (e : Ended) : e.code < 3 := by cases e <;> decide

theorem Offer.code_lt (o : Offer) : o.code < 3 := by cases o <;> decide

theorem EffectStatus.code_lt (x : EffectStatus) : x.code < 3 := by cases x <;> decide

theorem Notice.ownerCode_lt (n : Notice) : n.ownerCode < 2 ^ 4 := by
  unfold Notice.ownerCode
  split
  · exact Owner.code_lt _
  · decide

theorem Notice.endedCode_lt (n : Notice) : n.endedCode < 2 ^ 2 := by
  unfold Notice.endedCode
  split
  · exact Nat.lt_succ_of_lt (Ended.code_lt _)
  · decide

theorem Notice.offerCode_lt (n : Notice) : n.offerCode < 2 ^ 2 := by
  unfold Notice.offerCode
  split
  · exact Nat.lt_succ_of_lt (Offer.code_lt _)
  · decide

theorem outcomeCode_lt (l : List EffectStatus) (i : Nat) : outcomeCode l i < 2 ^ 2 := by
  unfold outcomeCode
  split
  · exact Nat.lt_succ_of_lt (EffectStatus.code_lt _)
  · decide

theorem statusesCode_eq (l : List EffectStatus) :
    statusesCode l = outcomeCode l 0 + 4 * outcomeCode l 1 + 16 * outcomeCode l 2 + 64 * outcomeCode l 3 := rfl

theorem Notice.headWord_fields (n : Notice) :
    bits n.headWord 0 3 = n.kind.code ∧ bits n.headWord 3 5 = 0 ∧ bits n.headWord 8 8 = n.number % 256
      ∧ bits n.headWord 16 4 = n.stepCode % 16 ∧ bits n.headWord 20 4 = 0 ∧ bits n.headWord 24 4 = n.ownerCode
      ∧ bits n.headWord 28 4 = 0 := by
  have hkind := n.kind.code_lt
  have howner := n.ownerCode_lt
  refine ⟨?_, ?_, ?_, ?_, ?_, ?_, ?_⟩
  all_goals
    rw [Notice.headWord, bits_ofNat _ (by decide)]
    simp only [fieldAt]
    omega

theorem Notice.outcomeWord_statuses (n : Notice) {i : Nat} (hi : i < 4) :
    bits n.outcomeWord (2 * i) 2 = outcomeCode n.statuses i := by
  have hfirst := outcomeCode_lt n.statuses 0
  have hsecond := outcomeCode_lt n.statuses 1
  have hthird := outcomeCode_lt n.statuses 2
  have hfourth := outcomeCode_lt n.statuses 3
  rw [Notice.outcomeWord, bits_ofNat _ (by omega), statusesCode_eq]
  simp only [fieldAt]
  match i, hi with
  | 0, _ => omega
  | 1, _ => omega
  | 2, _ => omega
  | 3, _ => omega

theorem Notice.outcomeWord_fields (n : Notice) :
    bits n.outcomeWord 8 2 = n.endedCode ∧ bits n.outcomeWord 10 2 = 0 ∧ bits n.outcomeWord 12 3 = reasonCode n.reason
      ∧ bits n.outcomeWord 15 1 = 0 ∧ bits n.outcomeWord 16 4 = timerCode n.timer
      ∧ bits n.outcomeWord 20 2 = n.offerCode ∧ bits n.outcomeWord 22 10 = 0 := by
  have hended := n.endedCode_lt
  have hreason := reasonCode_lt n.reason
  have htimer := timerCode_lt n.timer
  have hoffer := n.offerCode_lt
  refine ⟨?_, ?_, ?_, ?_, ?_, ?_, ?_⟩
  all_goals
    rw [Notice.outcomeWord, bits_ofNat _ (by decide)]
    simp only [fieldAt]
    omega

theorem Notice.linkWord_fields (n : Notice) :
    bits n.linkWord 0 8 = questCode n.parent ∧ bits n.linkWord 8 8 = questCode n.child
      ∧ bits n.linkWord 16 2 = n.depth % 4 ∧ bits n.linkWord 18 14 = 0 := by
  have hparent := questCode_lt n.parent
  have hchild := questCode_lt n.child
  refine ⟨?_, ?_, ?_, ?_⟩
  all_goals
    rw [Notice.linkWord, bits_ofNat _ (by decide)]
    simp only [fieldAt]
    omega

/-- The kind of a source, its number, its writer and its depth (12.8). -/
def sourceFields : Source → Nat × Nat × Nat × Nat
  | .watch w writer depth => (0, w.val, writer.code, depth % 16)
  | .expiry t => (1, t.val, 7, 0)
  | .command code => (2, code % 256, 7, 0)

theorem sourceWord_eq (x : Source) :
    sourceWord x =
      fieldAt 0 2 (sourceFields x).1 + fieldAt 8 8 (sourceFields x).2.1 + fieldAt 16 3 (sourceFields x).2.2.1
        + fieldAt 24 4 (sourceFields x).2.2.2 := by
  cases x with
  | watch w writer depth =>
    simp only [sourceWord, sourceFields, fieldAt]
    omega
  | expiry t => rfl
  | command code =>
    simp only [sourceWord, sourceFields, fieldAt]
    omega

theorem sourceFields_lt (x : Source) :
    (sourceFields x).1 < 2 ^ 2 ∧ (sourceFields x).2.1 < 2 ^ 8 ∧ (sourceFields x).2.2.1 < 2 ^ 3
      ∧ (sourceFields x).2.2.2 < 2 ^ 4 := by
  cases x with
  | watch w writer depth =>
    have hw := w.isLt
    have hwriter := writer.code_lt
    simp only [sourceFields]
    omega
  | expiry t =>
    have ht := t.isLt
    simp only [sourceFields]
    omega
  | command code =>
    simp only [sourceFields]
    omega

theorem sourceWord_fields (x : Source) :
    bits (BitVec.ofNat 32 (sourceWord x)) 0 2 = (sourceFields x).1 ∧ bits (BitVec.ofNat 32 (sourceWord x)) 2 6 = 0
      ∧ bits (BitVec.ofNat 32 (sourceWord x)) 8 8 = (sourceFields x).2.1
      ∧ bits (BitVec.ofNat 32 (sourceWord x)) 16 3 = (sourceFields x).2.2.1
      ∧ bits (BitVec.ofNat 32 (sourceWord x)) 19 5 = 0
      ∧ bits (BitVec.ofNat 32 (sourceWord x)) 24 4 = (sourceFields x).2.2.2
      ∧ bits (BitVec.ofNat 32 (sourceWord x)) 28 4 = 0 := by
  obtain ⟨hkind, hnumber, hwriter, hdepth⟩ := sourceFields_lt x
  refine ⟨?_, ?_, ?_, ?_, ?_, ?_, ?_⟩
  all_goals
    rw [bits_ofNat _ (by decide), sourceWord_eq]
    simp only [fieldAt]
    omega

/-! ### The writes of the notice writer (O46) -/

section
variable {s : State}

theorem writerFree_of_none (h : s.notice.pendingConfig = none) : s.writerFree = s.examineRing := by
  simp only [State.writerFree, h]

theorem writerFree_of_some {base size : Nat} (h : s.notice.pendingConfig = some (base, size)) :
    s.writerFree = s.installRing base size := by
  simp only [State.writerFree, h]

theorem exec_noticeElementWrite_of_granted {k : Nat} (hport : s.mpa.port = some (.ir .elementWrite))
    (hwriter : s.notice.writer = .writing k) :
    exec .noticeElementWrite s = .next (s.endIRGrant.writeElementWord k).react := by
  change execNoticeElementWrite s = _
  simp [execNoticeElementWrite, hport, hwriter, done_eq]

theorem exec_noticeProduceWrite_of_granted (hport : s.mpa.port = some (.ir .produceWrite)) :
    exec .noticeProduceWrite s = .next s.endIRGrant.publishElement.react := by
  change execNoticeProduceWrite s = _
  simp [execNoticeProduceWrite, hport, done_eq]

theorem exec_noticeRingIndexWrite_of_granted (hport : s.mpa.port = some (.ir .ringIndexWrite)) :
    exec .noticeRingIndexWrite s = .next s.endIRGrant.writeRingIndex.react := by
  change execNoticeRingIndexWrite s = _
  simp [execNoticeRingIndexWrite, hport, done_eq]

theorem elementWord_of_element {n : Notice} (h : s.notice.element = some n) (k : Nat) :
    s.elementWord k = n.words.getD k 0 := by
  simp only [State.elementWord, h]

theorem writeElementWord_inside {k : Nat} (hk : k < 7) :
    s.writeElementWord k =
      { s.partWrite (s.elementAddr k) (s.elementWord k) with
        notice := { s.notice with writer := .writing (k + 1) } } := by
  simp only [State.writeElementWord, if_neg (Nat.ne_of_lt hk)]
  rfl

theorem writeElementWord_last :
    s.writeElementWord 7 =
      { s.partWrite (s.elementAddr 7) (s.elementWord 7) with
        notice := { s.notice with writer := .publishing, produce := (s.notice.produce + 1) % s.notice.size } } := by
  simp only [State.writeElementWord, if_true]
  rfl

/-- The state after the second index write of an installed configuration. -/
def State.ringIndexed (s : State) : State :=
  { s.partWrite (s.pageAddr noticeConsumeOff) 0 with notice := { s.notice with indexWrites := 0 } }

theorem writeRingIndex_first (h : s.notice.indexWrites = 2) :
    s.writeRingIndex =
      { s.partWrite (s.pageAddr noticeProduceOff) 0 with notice := { s.notice with indexWrites := 1 } } := by
  simp only [State.writeRingIndex, h]
  rfl

theorem writeRingIndex_second (h : s.notice.indexWrites = 1) :
    s.writeRingIndex = State.writerFree (if s.ringCommandWaits then s.ringIndexed.report .ok [] else s.ringIndexed) := by
  simp only [State.writeRingIndex, h]
  rfl

end

/-- Settles O46. -/
theorem noticeWriterFillsTheRing : Obligations.NoticeWriterFillsTheRing := by
  refine ⟨fun n => ?words, fun s => ⟨fun hnone => writerFree_of_none hnone, fun base size hsome => writerFree_of_some hsome⟩,
    fun s v hv => ⟨fun k n hport hwriter hk helement => ?element, fun hport => ?produce, fun hport =>
      ⟨fun hfirst => ?first, fun words hsecond hpending hcmd hcode => ?answered, fun hsecond hother => ?silent⟩⟩⟩
  case words =>
    obtain ⟨hkind, hgap, hnumber, hstep, hgap', howner, htop⟩ := n.headWord_fields
    obtain ⟨hended, hegap, hreason, hrgap, htimer, hoffer, hotop⟩ := n.outcomeWord_fields
    obtain ⟨hsource, hsgap, hsnumber, hswriter, hsgap', hsdepth, hstop⟩ := sourceWord_fields n.source
    obtain ⟨hparent, hchild, hdepth, hltop⟩ := n.linkWord_fields
    refine ⟨n.headWord, n.outcomeWord, BitVec.ofNat 32 (sourceWord n.source), n.linkWord, n.words_eq, hkind.trans ?_, hgap,
      hnumber, hstep.trans ?_, hgap', howner.trans ?_, htop, fun i hi => (n.outcomeWord_statuses hi).trans ?_,
      hended.trans ?_, hegap, hreason.trans ?_, hrgap, htimer.trans ?_, hoffer.trans ?_, hotop, hsource.trans ?_, hsgap,
      hsnumber.trans ?_, hswriter.trans ?_, hsgap', hsdepth.trans ?_, hstop, hparent.trans ?_, hchild.trans ?_, hdepth,
      hltop⟩
    · cases n.kind <;> rfl
    · unfold Notice.stepCode
      cases n.step <;> rfl
    · unfold Notice.ownerCode
      cases n.owner with
      | none => rfl
      | some o => cases o <;> rfl
    · unfold outcomeCode
      cases n.statuses[i]? with
      | none => rfl
      | some x => cases x <;> rfl
    · unfold Notice.endedCode
      cases n.ended with
      | none => rfl
      | some e => cases e <;> rfl
    · cases n.reason with
      | none => rfl
      | some r => cases r <;> rfl
    · cases n.timer <;> rfl
    · unfold Notice.offerCode
      cases n.offer with
      | none => rfl
      | some o => cases o <;> rfl
    · cases n.source <;> rfl
    · cases n.source <;> rfl
    · cases n.source with
      | watch w writer depth => cases writer <;> rfl
      | expiry t => rfl
      | command c => rfl
    · cases n.source <;> rfl
    · cases n.parent <;> rfl
    · cases n.child <;> rfl
  all_goals subst hv
  case element =>
    have hword (j : Nat) : s.endIRGrant.elementWord j = n.words.getD j 0 := elementWord_of_element helement j
    rw [exec_noticeElementWrite_of_granted hport hwriter]
    refine ⟨fun hlt => ?_, fun hlast => ?_⟩
    · rw [writeElementWord_inside hlt, hword]
      rfl
    · subst hlast
      rw [writeElementWord_last, hword]
      rfl
  case produce =>
    rw [exec_noticeProduceWrite_of_granted hport]
    rfl
  case first =>
    rw [exec_noticeRingIndexWrite_of_granted hport, writeRingIndex_first (s := s.endIRGrant) hfirst]
    rfl
  case answered =>
    have hwaits : s.endIRGrant.ringCommandWaits = true := (ringCommandWaits_iff _).mpr ⟨words, hcmd, hcode, hpending⟩
    rw [exec_noticeRingIndexWrite_of_granted hport, writeRingIndex_second (s := s.endIRGrant) hsecond, if_pos hwaits,
      writerFree_of_none (s := s.endIRGrant.ringIndexed.report .ok []) hpending]
    rfl
  case silent =>
    have hidle : ¬s.endIRGrant.ringCommandWaits = true := by
      rw [ringCommandWaits_iff]
      rintro ⟨words, hcmd, hcode, hpending⟩
      obtain hbusy | hnone := hother
      · exact hbusy hpending
      · exact hnone words hcmd hcode
    rw [exec_noticeRingIndexWrite_of_granted hport, writeRingIndex_second (s := s.endIRGrant) hsecond, if_neg hidle]
    rfl

/-! ### SET NOTICE RING (O47) -/

theorem exec_setNoticeRing_of_hands {s : State} {words : List Word} (h : s.hands 0x50 words) :
    exec .setNoticeRing s = .next (s.setNoticeRing words).react := by
  change execSetNoticeRing s = _
  simp [execSetNoticeRing, handed_of_hands h, done_eq]

theorem ringAccepted_iff (s : State) (base size : Nat) :
    s.ringAccepted base size = true ↔
      base % 32 = 0 ∧ 8 ≤ size ∧ size ≤ 256 ∧ base + 32 * size ≤ s.installed
        ∧ (base + 32 * size ≤ s.pageBase ∨ s.pageBase + 0x1000 ≤ base) := by
  simp only [State.ringAccepted, Bool.and_eq_true, beq_iff_eq, decide_eq_true_eq, Bool.not_eq_true', Bool.and_eq_false_iff,
    decide_eq_false_iff_not]
  simp only [Config.pageSize]
  omega

theorem ringFree_iff (s : State) : s.ringFree = true ↔ s.notice.writer = .idle ∧ s.notice.indexWrites = 0 := by
  simp [State.ringFree]

/-- Settles O47. -/
theorem setNoticeRingInstallsOrWaits : Obligations.SetNoticeRingInstallsOrWaits := by
  intro s words base size good hands hbase hsize hgood
  subst hbase hsize
  rw [← ringAccepted_iff] at hgood
  rw [exec_setNoticeRing_of_hands hands]
  refine ⟨fun hbad => ?_, fun hok hidle hnone => ?_, fun hok hbusy => ?_⟩
  · rw [State.setNoticeRing, if_neg fun h => hbad (hgood.mpr h)]
    rfl
  · rw [State.setNoticeRing, if_pos (hgood.mp hok), if_pos ((ringFree_iff s).mpr ⟨hidle, hnone⟩),
      takeCommand_of_dispatched hands.1]
    rfl
  · have hwaits : ¬s.ringFree = true := by
      rw [ringFree_iff]
      rintro ⟨hidle, hnone⟩
      obtain h | h := hbusy
      · exact h hidle
      · exact h hnone
    rw [State.setNoticeRing, if_pos (hgood.mp hok), if_neg hwaits, takeCommand_of_dispatched hands.1]

end Sys2Proof.Machine
end

section
/-! PROOFS. The firing of one watch (O17), and the write that the watch unit takes (O16). -/

namespace Sys2Proof.Machine

open Sys2Proof

/-! ### The firing of one watch (O17) -/

theorem exec_watchTakeWrite_of_next {s : State} {e : SnoopWrite} (h : s.nextFor .watch = some (.write e)) :
    exec .watchTakeWrite s = .next ((s.takeFor .watch).takeWrite e).advanceWatchReset.react := by
  change execWatchTakeWrite s = _
  simp [execWatchTakeWrite, h, done_eq]

theorem firingDepth_eq (e : SnoopWrite) : firingDepth e = if e.writer = .effect then e.depth + 1 else 0 := by
  unfold firingDepth
  cases e.writer <;> rfl

theorem foldTakes_unseen {e : SnoopWrite} {l : List (Fin 64)} {s : State}
    (h : ∀ v ∈ l, (s.watch v).sees e = false) : l.foldl (fun s w => s.watchTakes e w) s = s := by
  induction l with
  | nil => rfl
  | cons v rest ih =>
    obtain ⟨hhead, hrest⟩ := List.forall_mem_cons.mp h
    rw [List.foldl_cons, watchTakes_unseen s e v hhead]
    exact ih hrest

/-- A write that one watch alone sees. -/
theorem takeWrite_of_one {s : State} {e : SnoopWrite} {w : Fin 64}
    (h : ∀ v : Fin 64, v ≠ w → (s.watch v).sees e = false) : s.takeWrite e = s.watchTakes e w := by
  obtain ⟨before, after, hsplit⟩ := List.append_of_mem (List.mem_finRange w)
  have hdistinct := List.nodup_finRange 64
  rw [hsplit] at hdistinct
  obtain ⟨-, hafter, hapart⟩ := List.nodup_append.mp hdistinct
  have hbefore (v : Fin 64) (hv : v ∈ before) : v ≠ w := hapart v hv w List.mem_cons_self
  have hother (v : Fin 64) (hv : v ∈ after) : v ≠ w := fun heq => (List.nodup_cons.mp hafter).1 (heq ▸ hv)
  unfold State.takeWrite
  rw [hsplit, List.foldl_append, foldTakes_unseen fun v hv => h v (hbefore v hv), List.foldl_cons]
  exact foldTakes_unseen fun v hv => by rw [watchTakes_watch_other s e w v (hother v hv)]; exact h v (hother v hv)

theorem offerOutcome_depth {s : State} {depth : Nat} (h : 8 ≤ depth) : s.offerOutcome depth = .depth := if_pos h

theorem offerOutcome_queued {s : State} {depth : Nat} (h : depth < 8) (hroom : s.queue.countP Trigger.isWatch < 16) :
    s.offerOutcome depth = .queued := by
  simp [State.offerOutcome, State.watchRoom, Nat.not_le.mpr h, hroom]

theorem offerOutcome_lost {s : State} {depth : Nat} (h : depth < 8) (hfull : 16 ≤ s.queue.countP Trigger.isWatch) :
    s.offerOutcome depth = .lost := by
  simp [State.offerOutcome, State.watchRoom, Nat.not_le.mpr h, Nat.not_lt.mpr hfull]

section
variable {s : State} {w : Fin 64} {writer : Writer} {depth : Nat}

theorem offerWatch_depth (h : 8 ≤ depth) :
    s.offerWatch w writer depth = (s.raise causeCascade).updWatch w (fun x => { x with missed := true }) := by
  simp only [State.offerWatch, offerOutcome_depth h]

theorem offerWatch_queued (h : depth < 8) (hroom : s.queue.countP Trigger.isWatch < 16) :
    s.offerWatch w writer depth = { s with queue := s.queue ++ [.watch w writer depth] } := by
  simp only [State.offerWatch, offerOutcome_queued h hroom]

theorem offerWatch_lost (h : depth < 8) (hfull : 16 ≤ s.queue.countP Trigger.isWatch) :
    s.offerWatch w writer depth = (s.raise causeTriggerLost).updWatch w (fun x => { x with missed := true }) := by
  simp only [State.offerWatch, offerOutcome_lost h hfull]

theorem fireWatch_eq (before after : Word) :
    s.fireWatch w writer depth before after =
      if (s.watch w).notify then
        (s.offerWatch w writer depth).handNotice (firedNotice w writer depth (s.offerOutcome depth) before after)
      else s.offerWatch w writer depth := rfl

end

/-- Settles O17. -/
theorem firingOffersItsTrigger : Obligations.FiringOffersItsTrigger := by
  intro s e w shadow depth u hnext hsees hfires hothers hshadow hdepth hu
  rw [← firingDepth_eq] at hdepth
  subst hshadow hdepth
  have htaken : (s.takeFor .watch).takeWrite e =
      u.fireWatch w e.writer (firingDepth e) (s.watch w).shadow ((s.watch w).observe e).shadow := by
    rw [takeWrite_of_one (s := s.takeFor .watch) hothers, watchTakes_fires (s.takeFor .watch) e w hsees hfires, hu]
    rfl
  have hnotify : (u.watch w).notify = (s.watch w).notify := by
    rw [hu, updWatch_self]
    rfl
  have hqueue : u.queue = s.queue := by rw [hu]; rfl
  have hexec := exec_watchTakeWrite_of_next hnext
  rw [htaken, fireWatch_eq, hnotify] at hexec
  refine ⟨u.offerOutcome (firingDepth e), u.offerWatch w e.writer (firingDepth e), ?_, fun hquiet => ?_, fun hloud => ?_⟩
  · obtain hdeep | hshallow := Nat.lt_or_ge (firingDepth e) 8 |>.symm
    · exact .inl ⟨hdeep, offerOutcome_depth hdeep, offerWatch_depth hdeep⟩
    · obtain hroom | hfull := Nat.lt_or_ge (s.queue.countP Trigger.isWatch) 16
      · have hroom' := hqueue ▸ hroom
        exact .inr (.inl ⟨hshallow, hroom, offerOutcome_queued hshallow hroom', offerWatch_queued hshallow hroom'⟩)
      · have hfull' := hqueue ▸ hfull
        exact .inr (.inr ⟨hshallow, hfull, offerOutcome_lost hshallow hfull', offerWatch_lost hshallow hfull'⟩)
  · rw [hexec, hquiet]
    rfl
  · rw [hexec, hloud]
    rfl

end Sys2Proof.Machine
end

section
/-! PROOFS. The write that the watch unit takes (O16). -/

namespace Sys2Proof.Machine

open Sys2Proof

/-! ### Causes that are raised (R168) -/

/-- Every cause of the set is pending or about to be. -/
def State.raised (s : State) (c : CauseSet) : Prop := c &&& ~~~(s.cause.arrivals ||| s.cause.working) = 0

/-- The causes of a state after operations that may raise causes, and do nothing else to them. -/
structure CausesGrow (s t : State) : Prop where
  working : t.cause.working = s.cause.working
  arrivals : ∃ x, t.cause.arrivals = s.cause.arrivals ||| x

theorem CausesGrow.refl (s : State) : CausesGrow s s := ⟨rfl, 0, by simp⟩

theorem CausesGrow.trans {s t u : State} (hst : CausesGrow s t) (htu : CausesGrow t u) : CausesGrow s u := by
  obtain ⟨hw, x, hx⟩ := hst
  obtain ⟨hw', y, hy⟩ := htu
  exact ⟨hw'.trans hw, x ||| y, by rw [hy, hx, BitVec.or_assoc]⟩

theorem CausesGrow.of_cause {s t : State} (h : t.cause = s.cause) : CausesGrow s t := ⟨by rw [h], 0, by simp [h]⟩

theorem raised_iff (s : State) (c : CauseSet) :
    s.raised c ↔ ∀ i, i < 15 → c.getLsbD i = true → (s.cause.arrivals ||| s.cause.working).getLsbD i = true := by
  unfold State.raised
  constructor
  · intro h i hi hc
    have hbit := congrArg (BitVec.getLsbD · i) h
    simpa only [BitVec.getLsbD_and, BitVec.getLsbD_not, hi, hc, decide_true, Bool.true_and, BitVec.ofNat_eq_ofNat,
      BitVec.getLsbD_zero, Bool.not_eq_false'] using hbit
  · intro h
    refine BitVec.eq_of_getLsbD_eq fun i hi => ?_
    rw [BitVec.getLsbD_and, BitVec.getLsbD_not]
    cases hc : c.getLsbD i with
    | false => simp
    | true => simp [h i hi hc]

theorem State.raised.grow {s t : State} {c : CauseSet} (h : s.raised c) (hgrow : CausesGrow s t) : t.raised c := by
  obtain ⟨hw, x, hx⟩ := hgrow
  rw [raised_iff] at h ⊢
  intro i hi hc
  have hold := h i hi hc
  rw [BitVec.getLsbD_or, Bool.or_eq_true] at hold
  rw [hx, hw, BitVec.getLsbD_or, BitVec.getLsbD_or, Bool.or_eq_true, Bool.or_eq_true]
  exact hold.imp_left .inl

theorem raised_raise (s : State) (c : CauseSet) : (s.raise c).raised c := by
  rw [raised_iff]
  intro i hi hc
  change (s.cause.arrivals ||| (c &&& ~~~s.cause.working) ||| s.cause.working).getLsbD i = true
  simp only [BitVec.getLsbD_or, BitVec.getLsbD_and, BitVec.getLsbD_not, hi, hc]
  cases s.cause.working.getLsbD i <;> simp

/-- Raising a set leaves the arrivals of another set as they were. -/
theorem raise_arrivals_apart (s : State) {c d : CauseSet} (h : c &&& d = 0) :
    (s.raise c).cause.arrivals &&& d = s.cause.arrivals &&& d := by
  change (s.cause.arrivals ||| (c &&& ~~~s.cause.working)) &&& d = _
  refine BitVec.eq_of_getLsbD_eq fun i hi => ?_
  have hbit := congrArg (BitVec.getLsbD · i) h
  simp only [BitVec.getLsbD_and, BitVec.getLsbD_or] at hbit ⊢
  cases hd : d.getLsbD i with
  | false => simp
  | true =>
    rw [hd, Bool.and_true] at hbit
    simp [hbit]

/-! ### What one watch's firing changes -/

theorem handNotice_cause (s : State) (n : Notice) :
    (s.handNotice n).cause = s.cause ∨ (s.handNotice n).cause = (s.raise causeNoticeLost).cause := by
  obtain hlost | ⟨-, hheld⟩ := handNotice_cases s n
  · exact .inr (by rw [hlost])
  · exact .inl (by rw [hheld, examineRing_cause])

section
variable {s : State} {w : Fin 64} {writer : Writer} {depth : Nat} {before after : Word}

theorem fireWatch_queue : (s.fireWatch w writer depth before after).queue = (s.offerWatch w writer depth).queue := by
  rw [fireWatch_eq]
  split
  · rw [handNotice_queue]
  · rfl

theorem fireWatch_watches_offer :
    (s.fireWatch w writer depth before after).watches = (s.offerWatch w writer depth).watches := by
  rw [fireWatch_eq]
  split
  · rw [handNotice_watches]
  · rfl

theorem fireWatch_cause :
    (s.fireWatch w writer depth before after).cause = (s.offerWatch w writer depth).cause
      ∨ (s.fireWatch w writer depth before after).cause = ((s.offerWatch w writer depth).raise causeNoticeLost).cause := by
  rw [fireWatch_eq]
  split
  · exact handNotice_cause _ _
  · exact .inl rfl

theorem causesGrow_offer_fire : CausesGrow (s.offerWatch w writer depth) (s.fireWatch w writer depth before after) := by
  obtain h | h := fireWatch_cause (s := s) (w := w) (writer := writer) (depth := depth) (before := before) (after := after)
  · exact .of_cause h
  · exact ⟨by rw [h]; rfl, _, by rw [h]; rfl⟩

theorem causesGrow_offerWatch : CausesGrow s (s.offerWatch w writer depth) := by
  unfold State.offerWatch
  split
  · exact .of_cause rfl
  · exact ⟨rfl, _, rfl⟩
  · exact ⟨rfl, _, rfl⟩

theorem causesGrow_fireWatch : CausesGrow s (s.fireWatch w writer depth before after) :=
  causesGrow_offerWatch.trans causesGrow_offer_fire

end

theorem causesGrow_watchTakes (s : State) (e : SnoopWrite) (w : Fin 64) : CausesGrow s (s.watchTakes e w) := by
  cases hsees : (s.watch w).sees e with
  | false => rw [watchTakes_unseen s e w hsees]; exact .refl s
  | true =>
    cases hfires : (s.watch w).firesAt e with
    | false => rw [watchTakes_silent s e w hsees hfires]; exact .of_cause rfl
    | true =>
      rw [watchTakes_fires s e w hsees hfires]
      exact CausesGrow.trans (t := s.updWatch w fun x => x.observe e) (.of_cause rfl) causesGrow_fireWatch

theorem causesGrow_foldTakes (e : SnoopWrite) (l : List (Fin 64)) (s : State) :
    CausesGrow s (l.foldl (fun s w => s.watchTakes e w) s) := by
  induction l generalizing s with
  | nil => exact .refl s
  | cons w rest ih => exact (causesGrow_watchTakes s e w).trans (ih _)

/-! ### One watch at one write -/

/-- Whether the watch fires on the write (R7). -/
def Watch.fires (x : Watch) (e : SnoopWrite) : Bool := x.sees e && x.firesAt e

theorem Watch.fires_iff (x : Watch) (e : SnoopWrite) :
    x.fires e = true ↔
      x.state = .armed ∧ x.addr = e.addr ∧ touchesField e.lanes x.lowBit x.width = true ∧ x.firesAt e = true := by
  simp [Watch.fires, Watch.sees, and_assoc]

section
variable {s : State} {e : SnoopWrite} {w : Fin 64}

/-- A watch that does not fire leaves the queue, the causes and the missed flags. -/
theorem watchTakes_quiet (h : (s.watch w).fires e = false) :
    (s.watchTakes e w).queue = s.queue ∧ (s.watchTakes e w).cause = s.cause
      ∧ ((s.watchTakes e w).watch w).missed = (s.watch w).missed := by
  cases hsees : (s.watch w).sees e with
  | false =>
    rw [watchTakes_unseen s e w hsees]
    exact ⟨rfl, rfl, rfl⟩
  | true =>
    have hfires : (s.watch w).firesAt e = false := by simpa [Watch.fires, hsees] using h
    rw [watchTakes_silent s e w hsees hfires, updWatch_self]
    exact ⟨rfl, rfl, rfl⟩

theorem watchTakes_of_fires (h : (s.watch w).fires e = true) :
    s.watchTakes e w =
      (s.updWatch w (fun x => x.observe e)).fireWatch w e.writer (firingDepth e) (s.watch w).shadow
        ((s.watch w).observe e).shadow := by
  obtain ⟨hsees, hfires⟩ := Bool.and_eq_true_iff.mp h
  exact watchTakes_fires s e w hsees hfires

/-- A firing that joins the queue. -/
theorem watchTakes_queued (h : (s.watch w).fires e = true) (hdepth : firingDepth e < 8)
    (hroom : s.queue.countP Trigger.isWatch < 16) :
    (s.watchTakes e w).queue = s.queue ++ [.watch w e.writer (firingDepth e)]
      ∧ (s.watchTakes e w).cause.arrivals &&& causeTriggerLost = s.cause.arrivals &&& causeTriggerLost
      ∧ ((s.watchTakes e w).watch w).missed = (s.watch w).missed := by
  have hoffer := offerWatch_queued (s := s.updWatch w fun x => x.observe e) (w := w) (writer := e.writer) hdepth hroom
  rw [watchTakes_of_fires h]
  refine ⟨?_, ?_, ?_⟩
  · rw [fireWatch_queue, hoffer]
    rfl
  · obtain hcause | hcause := fireWatch_cause (s := s.updWatch w fun x => x.observe e) (w := w) (writer := e.writer)
      (depth := firingDepth e) (before := (s.watch w).shadow) (after := ((s.watch w).observe e).shadow)
    · rw [hcause, hoffer]
      rfl
    · rw [hcause, raise_arrivals_apart _ (by decide), hoffer]
      rfl
  · rw [watch_of_watches fireWatch_watches_offer, hoffer]
    exact (congrArg Watch.missed (updWatch_self s w fun x => x.observe e)).trans rfl

/-- A firing that finds no room. -/
theorem watchTakes_lost (h : (s.watch w).fires e = true) (hdepth : firingDepth e < 8)
    (hfull : 16 ≤ s.queue.countP Trigger.isWatch) :
    (s.watchTakes e w).queue = s.queue ∧ (s.watchTakes e w).raised causeTriggerLost
      ∧ ((s.watchTakes e w).watch w).missed = true := by
  have hoffer := offerWatch_lost (s := s.updWatch w fun x => x.observe e) (w := w) (writer := e.writer) hdepth hfull
  have hraised : ((s.updWatch w fun x => x.observe e).offerWatch w e.writer (firingDepth e)).raised causeTriggerLost := by
    rw [hoffer]
    exact raised_raise (s.updWatch w fun x => x.observe e) causeTriggerLost
  rw [watchTakes_of_fires h]
  refine ⟨?_, hraised.grow causesGrow_offer_fire, ?_⟩
  · rw [fireWatch_queue, hoffer]
    rfl
  · rw [watch_of_watches fireWatch_watches_offer, hoffer, updWatch_self]

/-- A firing at depth 8. -/
theorem watchTakes_deep (h : (s.watch w).fires e = true) (hdepth : 8 ≤ firingDepth e) :
    (s.watchTakes e w).queue = s.queue ∧ (s.watchTakes e w).raised causeCascade
      ∧ ((s.watchTakes e w).watch w).missed = true := by
  have hoffer := offerWatch_depth (s := s.updWatch w fun x => x.observe e) (w := w) (writer := e.writer) hdepth
  have hraised : ((s.updWatch w fun x => x.observe e).offerWatch w e.writer (firingDepth e)).raised causeCascade := by
    rw [hoffer]
    exact raised_raise (s.updWatch w fun x => x.observe e) causeCascade
  rw [watchTakes_of_fires h]
  refine ⟨?_, hraised.grow causesGrow_offer_fire, ?_⟩
  · rw [fireWatch_queue, hoffer]
    rfl
  · rw [watch_of_watches fireWatch_watches_offer, hoffer, updWatch_self]

/-- The missed flag of a watch is set by its firing alone, and is not cleared. -/
theorem watchTakes_missed :
    ((s.watch w).firesAt e = false → ((s.watchTakes e w).watch w).missed = (s.watch w).missed)
      ∧ ((s.watch w).missed = true → ((s.watchTakes e w).watch w).missed = true) := by
  cases hfires : (s.watch w).fires e with
  | false =>
    obtain ⟨-, -, hmissed⟩ := watchTakes_quiet hfires
    exact ⟨fun _ => hmissed, fun h => hmissed.trans h⟩
  | true =>
    have hquiet (h : (s.watch w).firesAt e = false) : False := by
      rw [Watch.fires, h, Bool.and_false] at hfires
      cases hfires
    refine ⟨fun h => (hquiet h).elim, fun h => ?_⟩
    obtain hdeep | hshallow := Nat.lt_or_ge (firingDepth e) 8 |>.symm
    · exact (watchTakes_deep hfires hdeep).2.2
    · obtain hroom | hfull := Nat.lt_or_ge (s.queue.countP Trigger.isWatch) 16
      · exact (watchTakes_queued hfires hshallow hroom).2.2.trans h
      · exact (watchTakes_lost hfires hshallow hfull).2.2

end

/-! ### All watches at one write (R5) -/

/-- The state in which a watch takes the write has that watch as it was. -/
theorem foldTakes_watch_at (e : SnoopWrite) {l : List (Fin 64)} (hdistinct : l.Nodup) {w : Fin 64} (h : w ∈ l)
    (s : State) :
    ∃ u : State, u.watch w = s.watch w ∧ (l.foldl (fun s w => s.watchTakes e w) s).watch w = (u.watchTakes e w).watch w := by
  induction l generalizing s with
  | nil => cases h
  | cons v rest ih =>
    obtain ⟨hfresh, hdistinct⟩ := List.nodup_cons.mp hdistinct
    rw [List.foldl_cons]
    by_cases hv : w = v
    · subst hv
      exact ⟨s, rfl, foldTakes_watch_of_notMem e hfresh _⟩
    · obtain ⟨u, hu, hfold⟩ := ih hdistinct (List.mem_of_ne_of_mem hv h) (s.watchTakes e v)
      exact ⟨u, hu.trans (watchTakes_watch_other s e v w hv), hfold⟩

/-- The watches of the list that fire, in its order. -/
def State.firing (s : State) (e : SnoopWrite) (l : List (Fin 64)) : List (Fin 64) := l.filter fun w => (s.watch w).fires e

/-- What the firings of some watches, in this order, have done at a depth below 8. -/
structure Offered (s t : State) (e : SnoopWrite) (fired : List (Fin 64)) : Prop where
  queue : t.queue = s.queue ++
    (fired.take (16 - s.queue.countP Trigger.isWatch)).map fun w => .watch w e.writer (firingDepth e)
  kept : ∀ w ∈ fired.take (16 - s.queue.countP Trigger.isWatch), (t.watch w).missed = (s.watch w).missed
  missed : ∀ w ∈ fired.drop (16 - s.queue.countP Trigger.isWatch), (t.watch w).missed = true
  lost : 16 - s.queue.countP Trigger.isWatch < fired.length → t.raised causeTriggerLost
  arrivals : fired.length ≤ 16 - s.queue.countP Trigger.isWatch →
    t.cause.arrivals &&& causeTriggerLost = s.cause.arrivals &&& causeTriggerLost

/-- What the firings of some watches have done at depth 8. -/
structure Cascaded (s t : State) (fired : List (Fin 64)) : Prop where
  queue : t.queue = s.queue
  missed : ∀ w ∈ fired, (t.watch w).missed = true
  raised : fired ≠ [] → t.raised causeCascade

theorem firing_rest {s : State} {e : SnoopWrite} {w : Fin 64} {rest : List (Fin 64)} (hfresh : w ∉ rest) :
    (s.watchTakes e w).firing e rest = s.firing e rest := by
  refine List.filter_congr fun v hv => ?_
  rw [watchTakes_watch_other s e w v fun heq => hfresh (heq ▸ hv)]

theorem foldTakes_cascaded {e : SnoopWrite} (hdepth : 8 ≤ firingDepth e) {l : List (Fin 64)} (hdistinct : l.Nodup)
    (s : State) : Cascaded s (l.foldl (fun s w => s.watchTakes e w) s) (s.firing e l) := by
  induction l generalizing s with
  | nil => exact ⟨rfl, fun w hw => absurd hw (List.not_mem_nil), fun h => absurd rfl h⟩
  | cons w rest ih =>
    obtain ⟨hfresh, hdistinct⟩ := List.nodup_cons.mp hdistinct
    obtain ⟨hqueue, hmissed, hraised⟩ := ih hdistinct (s.watchTakes e w)
    have hself := foldTakes_watch_of_notMem e hfresh (s.watchTakes e w)
    have hgrow := causesGrow_foldTakes e rest (s.watchTakes e w)
    rw [firing_rest hfresh] at hmissed hraised
    rw [List.foldl_cons]
    cases hfires : (s.watch w).fires e with
    | false =>
      have hlist : s.firing e (w :: rest) = s.firing e rest := by simp [State.firing, hfires]
      rw [hlist]
      exact ⟨hqueue.trans (watchTakes_quiet hfires).1, hmissed, hraised⟩
    | true =>
      obtain ⟨hsame, hcascade, hset⟩ := watchTakes_deep hfires hdepth
      have hlist : s.firing e (w :: rest) = w :: s.firing e rest := by simp [State.firing, hfires]
      rw [hlist]
      refine ⟨hqueue.trans hsame, List.forall_mem_cons.mpr ⟨?_, hmissed⟩, fun _ => hcascade.grow hgrow⟩
      rw [hself, hset]

theorem mem_firing {s : State} {e : SnoopWrite} {l : List (Fin 64)} {w : Fin 64} (h : w ∈ s.firing e l) : w ∈ l :=
  List.mem_of_mem_filter h

theorem foldTakes_offered {e : SnoopWrite} (hdepth : firingDepth e < 8) {l : List (Fin 64)} (hdistinct : l.Nodup)
    (s : State) : Offered s (l.foldl (fun s w => s.watchTakes e w) s) e (s.firing e l) := by
  induction l generalizing s with
  | nil => exact ⟨by simp [State.firing], fun w hw => by simp [State.firing] at hw, fun w hw => by simp [State.firing] at hw,
      fun h => by simp [State.firing] at h, fun _ => rfl⟩
  | cons w rest ih =>
    obtain ⟨hfresh, hdistinct⟩ := List.nodup_cons.mp hdistinct
    obtain ⟨hqueue, hkept, hmissed, hlost, harrivals⟩ := ih hdistinct (s.watchTakes e w)
    have hself := foldTakes_watch_of_notMem e hfresh (s.watchTakes e w)
    have hgrow := causesGrow_foldTakes e rest (s.watchTakes e w)
    have hother (v : Fin 64) (hv : v ∈ s.firing e rest) : (s.watchTakes e w).watch v = s.watch v :=
      watchTakes_watch_other s e w v fun heq => hfresh (heq ▸ mem_firing hv)
    rw [firing_rest hfresh] at hqueue hkept hmissed hlost harrivals
    rw [List.foldl_cons]
    generalize rest.foldl (fun s w => s.watchTakes e w) (s.watchTakes e w) = t at *
    cases hfires : (s.watch w).fires e with
    | false =>
      obtain ⟨hq, hc, hm⟩ := watchTakes_quiet hfires
      have hlist : s.firing e (w :: rest) = s.firing e rest := by simp [State.firing, hfires]
      rw [hq] at hqueue hkept hmissed hlost harrivals
      rw [hc] at harrivals
      rw [hlist]
      exact ⟨hqueue, fun v hv => by rw [hkept v hv, hother v (List.mem_of_mem_take hv)], hmissed, hlost, harrivals⟩
    | true =>
      have hlist : s.firing e (w :: rest) = w :: s.firing e rest := by simp [State.firing, hfires]
      rw [hlist]
      obtain hroom | hfull := Nat.lt_or_ge (s.queue.countP Trigger.isWatch) 16
      · obtain ⟨hq, hc, hm⟩ := watchTakes_queued hfires hdepth hroom
        obtain ⟨room, hsize⟩ : ∃ room, 16 - s.queue.countP Trigger.isWatch = room + 1 :=
          ⟨15 - s.queue.countP Trigger.isWatch, by omega⟩
        have hleft : 16 - (s.watchTakes e w).queue.countP Trigger.isWatch = room := by
          rw [hq, List.countP_append]
          simp [Trigger.isWatch]
          omega
        rw [hleft] at hqueue hkept hmissed hlost harrivals
        refine ⟨?_, ?_, ?_, ?_, ?_⟩
        · rw [hqueue, hq, hsize]
          simp
        · rw [hsize, List.take_succ_cons]
          refine List.forall_mem_cons.mpr ⟨by rw [hself, hm], fun v hv => ?_⟩
          rw [hkept v hv, hother v (List.mem_of_mem_take hv)]
        · rw [hsize, List.drop_succ_cons]
          exact hmissed
        · rw [hsize, List.length_cons]
          exact fun h => hlost (by omega)
        · rw [hsize, List.length_cons]
          exact fun h => (harrivals (by omega)).trans hc
      · obtain ⟨hq, hc, hm⟩ := watchTakes_lost hfires hdepth hfull
        have hsize : 16 - s.queue.countP Trigger.isWatch = 0 := by omega
        rw [hq, hsize] at hqueue hkept hmissed hlost harrivals
        refine ⟨?_, ?_, ?_, ?_, ?_⟩
        · rw [hqueue, hsize]
          rfl
        · rw [hsize]
          exact fun v hv => by cases hv
        · rw [hsize]
          exact List.forall_mem_cons.mpr ⟨by rw [hself, hm], hmissed⟩
        · exact fun _ => hc.grow hgrow
        · rw [hsize]
          exact fun h => by cases h

/-! ### Conditions, filters and firings (R3, R4, R6, R7) -/

/-- R3, R4: the comparisons, both values at the field's width. -/
theorem truthOf_iff {width : Nat} (hw : 1 ≤ width) {shadow operand : Word} {x y : Int}
    (hx : x = if shadow.toNat < 2 ^ (width - 1) then (shadow.toNat : Int) else (shadow.toNat : Int) - 2 ^ width)
    (hy : y = if operand.toNat < 2 ^ (width - 1) then (operand.toNat : Int) else (operand.toNat : Int) - 2 ^ width) :
    (truthOf .equal width shadow operand = true ↔ shadow = operand)
      ∧ (truthOf .unequal width shadow operand = true ↔ shadow ≠ operand)
      ∧ (truthOf .below width shadow operand = true ↔ shadow.toNat < operand.toNat)
      ∧ (truthOf .atLeast width shadow operand = true ↔ shadow.toNat ≥ operand.toNat)
      ∧ (truthOf .above width shadow operand = true ↔ shadow.toNat > operand.toNat)
      ∧ (truthOf .atMost width shadow operand = true ↔ shadow.toNat ≤ operand.toNat)
      ∧ (truthOf .less width shadow operand = true ↔ x < y)
      ∧ (truthOf .notLess width shadow operand = true ↔ x ≥ y)
      ∧ (truthOf .greater width shadow operand = true ↔ x > y)
      ∧ (truthOf .notGreater width shadow operand = true ↔ x ≤ y) := by
  rw [← signedAt_eq width shadow hw] at hx
  rw [← signedAt_eq width operand hw] at hy
  subst hx hy
  simp [truthOf]

theorem firesAt_iff (x : Watch) (e : SnoopWrite) :
    x.firesAt e = true ↔
      x.filter.accepts e.writer = true
      ∧ (x.condition = .changed → shadowAfter x.lowBit x.width e.lanes e.data x.shadow ≠ x.shadow)
      ∧ (x.condition ≠ .changed →
          x.truth = false
          ∧ truthOf x.condition x.width (shadowAfter x.lowBit x.width e.lanes e.data x.shadow) x.operand = true) := by
  unfold Watch.firesAt Watch.observe
  cases x.condition with
  | changed => simp [firesOn, ne_comm]
  | _ => simp [firesOn, and_assoc]

/-- The list of the watches that fire is the one with its members in ascending number. -/
theorem firing_eq {s : State} {e : SnoopWrite} {fired : List (Fin 64)} (hsorted : fired.Pairwise (fun v w => v < w))
    (hmem : ∀ w : Fin 64, w ∈ fired ↔ (s.watch w).state = .armed ∧ (s.watch w).addr = e.addr
      ∧ touchesField e.lanes (s.watch w).lowBit (s.watch w).width = true ∧ (s.watch w).firesAt e = true) :
    s.firing e (List.finRange 64) = fired := by
  have hpairwise : (s.firing e (List.finRange 64)).Pairwise (fun v w => v < w) :=
    (List.sortedLT_finRange 64).pairwise.filter _
  refine hpairwise.eq_of_mem_iff hsorted fun w => ?_
  rw [hmem, ← Watch.fires_iff, State.firing, List.mem_filter]
  exact and_iff_right (List.mem_finRange w)

theorem takeWrite_offered {s : State} {e : SnoopWrite} (hdepth : firingDepth e < 8) :
    Offered s (s.takeWrite e) e (s.firing e (List.finRange 64)) :=
  foldTakes_offered hdepth (List.nodup_finRange 64) s

theorem takeWrite_cascaded {s : State} {e : SnoopWrite} (hdepth : 8 ≤ firingDepth e) :
    Cascaded s (s.takeWrite e) (s.firing e (List.finRange 64)) :=
  foldTakes_cascaded hdepth (List.nodup_finRange 64) s

theorem causesGrow_takeWrite (s : State) (e : SnoopWrite) : CausesGrow s (s.takeWrite e) := causesGrow_foldTakes e _ s

theorem takeWrite_watch_at (s : State) (e : SnoopWrite) (w : Fin 64) :
    ∃ u : State, u.watch w = s.watch w ∧ (s.takeWrite e).watch w = (u.watchTakes e w).watch w :=
  foldTakes_watch_at e (List.nodup_finRange 64) (List.mem_finRange w) s

/-- Settles O16. -/
theorem watchesObserveTheTakenWrite : Obligations.WatchesObserveTheTakenWrite := by
  refine ⟨fun width shadow operand x y hw hx hy => ?truth, fun f => ⟨rfl, rfl, rfl, rfl⟩,
    fun l low width hw hfit => ⟨touchesField_iff l low width hw hfit, fun data shadow i hi =>
      shadowAfter_getLsbD low width l data shadow i hfit hi⟩, firesAt_iff, fun s e hnext => ?takes⟩
  case truth =>
    obtain ⟨h0, h1, h2, h3, h4, h5, h6, h7, h8, h9⟩ := truthOf_iff hw hx hy
    exact ⟨h0, h1, h2, h3, h4, h5, h6, h7, h8, h9, rfl⟩
  case takes =>
    have hall := takeWrite_watch (s.takeFor .watch) e
    refine ⟨(s.takeFor .watch).takeWrite e, exec_watchTakeWrite_of_next hnext, fun w hunseen => ?_,
      fun w harmed haddr htouch => ?_, fun fired room depth hsorted hmem hroom hdepth => ?_, ?_, ?_⟩
    · have hsees : (s.watch w).sees e = false := by
        rw [← Bool.not_eq_true]
        simpa [Watch.sees, and_assoc] using hunseen
      obtain ⟨u, hu, hfold⟩ := takeWrite_watch_at (s.takeFor .watch) e w
      have hsame : u.watch w = s.watch w := hu
      rw [watchTakes_unseen u e w (by rw [hsame]; exact hsees), hsame] at hfold
      exact hfold
    · have hsees : (s.watch w).sees e = true := by simp [Watch.sees, harmed, haddr, htouch]
      obtain ⟨missed, hwatch⟩ := hall w
      obtain ⟨u, hu, hfold⟩ := takeWrite_watch_at (s.takeFor .watch) e w
      have hflag : missed = ((u.watchTakes e w).watch w).missed := by
        rw [← hfold]
        exact (congrArg Watch.missed hwatch).symm
      have hsame : u.watch w = s.watch w := hu
      obtain ⟨hquiet, hstays⟩ := watchTakes_missed (s := u) (e := e) (w := w)
      rw [hsame, ← hflag] at hquiet hstays
      refine ⟨_, missed, rfl, hwatch.trans ?_, hquiet, hstays⟩
      have hafter : (s.watch w).after e = (s.watch w).observe e := if_pos hsees
      exact congrArg (fun x : Watch => { x with missed := missed }) hafter
    · have hlist : (s.takeFor .watch).firing e (List.finRange 64) = fired := firing_eq hsorted hmem
      rw [← firingDepth_eq] at hdepth
      subst hroom hdepth
      refine ⟨fun hshallow => ?_, fun hdeep => ?_⟩
      · obtain ⟨hqueue, hkept, hmissed, hlost, harrivals⟩ :=
          takeWrite_offered (s := s.takeFor .watch) hshallow
        rw [hlist] at hqueue hkept hmissed hlost harrivals
        exact ⟨hqueue, hkept, hmissed, hlost, harrivals⟩
      · obtain ⟨hqueue, hmissed, hraised⟩ :=
          takeWrite_cascaded (s := s.takeFor .watch) hdeep
        rw [hlist] at hmissed hraised
        exact ⟨hqueue, hmissed, hraised⟩
    · exact (causesGrow_takeWrite (s.takeFor .watch) e).working
    · rw [takeWrite_eq]
      exact ⟨rfl, rfl, rfl, rfl, rfl, rfl, rfl, rfl, rfl⟩

end Sys2Proof.Machine
end

section
/-! PROOFS. The warm reset (O8). -/

namespace Sys2Proof.Machine

open Sys2Proof

/-! ### The state that a warm reset leaves -/

/-- The state of every block but the watch unit at a warm reset. -/
def State.resetBase (s : State) : State :=
  { s.resetRegions with
    gameReset := true
    mpa := { s.mpa with port := s.resetGrant }
    fault := s.resetFault
    cause := s.cause.warmReset s.resetFault
    syncRead := s.resetSync
    queue := []
    quests := s.quests.map Quest.warmReset
    work := none
    effectUnit := .idle
    timers := s.timers.map Timer.warmReset
    beatOut := false
    consumeIndex := s.page.produce
    cmd := .advancing
    notice := s.notice.warmReset }

theorem warmReset_eq_place (s : State) : s.warmReset = s.resetBase.placeWatchReset s.inputBeforeReset := rfl

/-- The state after the step of a warm reset, whose reaction leaves this grant at the port. -/
def State.resetWith (s : State) (g : Option Grant) : State :=
  { s with
    regions := s.resetRegions.regions, pendingRegion := s.resetRegions.pendingRegion
    gameReset := true
    mpa := { s.mpa with port := g }
    fault := s.resetFault
    cause := s.cause.warmReset s.resetFault
    syncRead := s.warmReset.syncRead, watches := s.warmReset.watches, watchReset := s.warmReset.watchReset
    queue := []
    quests := s.quests.map Quest.warmReset
    work := none
    effectUnit := .idle
    timers := s.timers.map Timer.warmReset
    beatOut := false
    consumeIndex := s.page.produce
    cmd := .advancing
    notice := s.notice.warmReset }

/-- No publication begins: the two reset writes come first. -/
theorem beginPublication_warmReset (s : State) : s.warmReset.beginPublication = s.warmReset := by
  have hpub : s.warmReset.cause.publication = .resetCause := by
    rw [warmReset_eq]
    rfl
  simp [State.beginPublication, hpub]

theorem react_warmReset (s : State) :
    ∃ g, s.warmReset.react = s.resetWith g ∧ ∀ h, s.resetGrant = some h → g = some h := by
  refine ⟨s.warmReset.nextGrant, ?_, fun h hgrant => ?_⟩
  · unfold State.react
    rw [beginPublication_warmReset, arbitrate_eq]
    exact congrArg (fun v : State => { v with mpa := { v.mpa with port := s.warmReset.nextGrant } }) (warmReset_eq s)
  · have hport : s.warmReset.mpa.port = some h := by
      rw [warmReset_eq]
      exact hgrant
    rw [nextGrant_of_busy (.inl (by rw [hport]; exact Option.some_ne_none h)), hport]

theorem exec_warmReset_taken {s : State} (h : s.gameReset = false) :
    exec (.warmReset true) s = .next s.warmReset.react := by
  change execWarmReset true s = _
  simp [execWarmReset, h, done_eq]

theorem exec_warmReset_standing {s : State} (h : s.gameReset = true) : exec (.warmReset true) s = .next s := by
  change execWarmReset true s = _
  simp [execWarmReset, h]

/-! ### Quests, timers and regions (R55, R133, R162) -/

section
variable (s : State) (g : Option Grant)

theorem resetWith_quest (q : Fin 32) :
    (s.resetWith g).quest q =
      if (s.quest q).state = .vacant then s.quest q
      else
        { s.quest q with
          state := .loaded, current := 0, parent := none, child := none, depth := 0, bound := none, late := false,
          reason := none } :=
  calc
    (s.resetWith g).quest q = (s.quest q).warmReset := Vector.getElem_map ..
    _ = _ := rfl

theorem resetWith_timer (k : Fin 8) :
    (s.resetWith g).timer k = { s.timer k with state := .stopped, count := (s.timer k).reload, binder := none } :=
  calc
    (s.resetWith g).timer k = (s.timer k).warmReset := Vector.getElem_map ..
    _ = _ := rfl

end

section
variable {s : State}

theorem resetRegions_of_granted (h : s.mpa.port = some (.ir .statusWrite)) : s.resetRegions = s.installRegion := if_pos h

theorem resetRegions_of_other (h : s.mpa.port ≠ some (.ir .statusWrite)) :
    s.resetRegions = { s with pendingRegion := none } :=
  if_neg h

theorem resetRegions_pendingRegion : s.resetRegions.pendingRegion = none := by
  by_cases h : s.mpa.port = some (.ir .statusWrite)
  · rw [resetRegions_of_granted h, installRegion_pendingRegion]
  · rw [resetRegions_of_other h]

theorem installRegion_none (h : s.pendingRegion = none) : s.installRegion = s := by
  simp only [State.installRegion, h]

theorem installRegion_some {n : Fin 16} {r : Region} (h : s.pendingRegion = some (n, r)) :
    s.installRegion = { s with regions := s.regions.set n.val r n.isLt, pendingRegion := none } := by
  simp only [State.installRegion, h]

/-! ### The watch unit (R26, R114, R162; log 32) -/

theorem placeWatchReset_taken (h : s.watchReset = none) : s.placeWatchReset 0 = s.takeWatchReset := by
  simp [State.placeWatchReset, h]

theorem placeWatchReset_behind {n : Nat} (h : s.watchReset = none) (hn : n ≠ 0) :
    s.placeWatchReset n = { s with watchReset := some n } := by
  simp [State.placeWatchReset, h, hn]

theorem placeWatchReset_again (h : s.watchReset ≠ none) (n : Nat) : s.placeWatchReset n = s := by
  obtain ⟨m, hm⟩ := Option.ne_none_iff_exists'.mp h
  simp [State.placeWatchReset, hm]

theorem resetBase_watchReset : s.resetBase.watchReset = s.watchReset := by
  unfold State.resetBase
  rw [resetRegions_eq]

theorem resetBase_watches : s.resetBase.watches = s.watches := by
  unfold State.resetBase
  rw [resetRegions_eq]

theorem resetBase_watch (w : Fin 64) : s.resetBase.watch w = s.watch w := watch_of_watches resetBase_watches w

theorem takeWatchReset_watchReset : s.takeWatchReset.watchReset = none := by
  rw [takeWatchReset_eq]

theorem effectTransferring_iff :
    s.effectTransferring = true ↔
      s.mpa.port = some (.ir .effectRmw) ∧ ∃ j, s.effectUnit = .grantWait j ∧ s.permitsEffect j.record.addr = true := by
  unfold State.effectTransferring
  split
  · next j hport hunit => simp [hport, hunit]
  · next hother =>
    refine ⟨fun h => (Bool.false_ne_true h).elim, fun ⟨hport, j, hunit, _⟩ => (hother j hport hunit).elim⟩

/-- The reset is taken at once exactly where no item stands before it and no earlier one waits. -/
theorem warmReset_taken_of_watchReset (h : s.warmReset.watchReset = none) :
    s.warmReset = s.resetBase.takeWatchReset := by
  rw [warmReset_eq_place] at h ⊢
  by_cases hwaits : s.resetBase.watchReset = none
  · by_cases hn : s.inputBeforeReset = 0
    · rw [hn, placeWatchReset_taken hwaits]
    · rw [placeWatchReset_behind hwaits hn] at h
      cases h
  · rw [placeWatchReset_again hwaits] at h
    exact (hwaits h).elim

theorem warmReset_of_waiting (h : s.warmReset.watchReset ≠ none) : s.warmReset.syncRead = s.resetSync := by
  rw [warmReset_eq_place] at h ⊢
  by_cases hwaits : s.resetBase.watchReset = none
  · by_cases hn : s.inputBeforeReset = 0
    · rw [hn, placeWatchReset_taken hwaits, takeWatchReset_watchReset] at h
      exact (h rfl).elim
    · rw [placeWatchReset_behind hwaits hn]
      rfl
  · rw [placeWatchReset_again hwaits]
    rfl

/-- R26: the watches once the reset is taken. -/
def State.resetWatches (s : State) : State := { s with watchReset := none, watches := s.watches.map Watch.warmReset }

theorem resetWatches_watch (w : Fin 64) :
    s.resetWatches.watch w =
      if (s.watch w).state = .free then s.watch w else { s.watch w with state := .syncing, missed := false } := by
  rw [← warmReset_watch]
  exact Vector.getElem_map ..

theorem resetWatches_state (w : Fin 64) : (s.resetWatches.watch w).state = .syncing ↔ (s.watch w).state ≠ .free := by
  rw [resetWatches_watch]
  split
  · next h => simp [h]
  · next h => simp [h]

theorem takeWatchReset_eq_issue : s.takeWatchReset = s.resetWatches.issueSync := rfl

theorem warmReset_syncRead_none (hnone : s.resetSync = none) (h : s.warmReset.watchReset = none)
    (hfree : ∀ w : Fin 64, (s.watch w).state = .free) : s.warmReset.syncRead = none := by
  have hidle (w : Fin 64) : (s.resetBase.resetWatches.watch w).state ≠ .syncing := by
    rw [Ne, resetWatches_state, resetBase_watch]
    exact fun hdef => hdef (hfree w)
  rw [warmReset_taken_of_watchReset h, takeWatchReset_eq_issue, issueSync_settled _ hidle]
  exact hnone

theorem warmReset_syncRead_lowest (hnone : s.resetSync = none) (h : s.warmReset.watchReset = none) {w : Fin 64}
    (hdef : (s.watch w).state ≠ .free) (hlow : ∀ v : Fin 64, v < w → (s.watch v).state = .free) :
    s.warmReset.syncRead = some { watch := w, addr := (s.watch w).addr, completed := false, stale := false } := by
  have hsyncing : (s.resetBase.resetWatches.watch w).state = .syncing := by
    rw [resetWatches_state, resetBase_watch]
    exact hdef
  have hbelow (v : Fin 64) (hv : v < w) : (s.resetBase.resetWatches.watch v).state ≠ .syncing := by
    rw [Ne, resetWatches_state, resetBase_watch]
    exact fun h => h (hlow v hv)
  have haddr : (s.resetBase.resetWatches.watch w).addr = (s.watch w).addr := by
    rw [resetWatches_watch, resetBase_watch, if_neg hdef]
  rw [warmReset_taken_of_watchReset h, takeWatchReset_eq_issue,
    issueSync_lowest (s := s.resetBase.resetWatches) hnone rfl hsyncing hbelow, haddr]

theorem resetSync_of_begun {r : SyncRead} (hr : s.syncRead = some r)
    (h : r.completed = true ∨ s.mpa.port = some (.ir .syncRead)) : s.resetSync = some { r with stale := true } := by
  have hbegun : (r.completed || s.mpa.port == some (.ir .syncRead)) = true := by simpa using h
  simp only [State.resetSync, hr, if_pos hbegun]

theorem resetSync_of_unbegun
    (h : s.syncRead = none
      ∨ ∃ r, s.syncRead = some r ∧ r.completed = false ∧ s.mpa.port ≠ some (.ir .syncRead)) : s.resetSync = none := by
  obtain hr | ⟨r, hr, hopen, hport⟩ := h
  · simp only [State.resetSync, hr]
  · have hunbegun : ¬(r.completed || s.mpa.port == some (.ir .syncRead)) = true := by simp [hopen, hport]
    simp only [State.resetSync, hr, if_neg hunbegun]

/-! ### The grant in progress (R162; log 19) -/

theorem resetGrant_of_master {m : Master} (h : s.mpa.port = some (.master m)) : s.resetGrant = some (.master m) := by
  simp only [State.resetGrant, h]

theorem resetGrant_of_orphan {a : IRAccess} {op : OrphanOp} (h : s.mpa.port = some (.orphan a op)) :
    s.resetGrant = some (.orphan a op) := by
  simp only [State.resetGrant, h]

theorem resetGrant_of_ir {a : IRAccess} (h : s.mpa.port = some (.ir a)) : s.resetGrant = some (s.orphaned a) := by
  simp only [State.resetGrant, h]

theorem orphaned_effectRmw {j : EffectJob} (h : s.effectUnit = .grantWait j) :
    s.orphaned .effectRmw = .orphan .effectRmw (.effect j) := by
  simp only [State.orphaned, h]

theorem orphaned_elementWrite {k : Nat} (h : s.notice.writer = .writing k) :
    s.orphaned .elementWrite = .orphan .elementWrite (.write (s.elementAddr k) (s.elementWord k)) := by
  simp only [State.orphaned, h]

theorem orphaned_resultWrite {st : Status} {next : Nat} {r : Word} {rest : List Word}
    (h : s.cmd = .reporting st next (r :: rest)) :
    s.orphaned .resultWrite = .orphan .resultWrite (.write (s.slotAddr next) r) := by
  simp only [State.orphaned, h]

theorem orphaned_statusWrite {st : Status} {next : Nat} {rs : List Word} (h : s.cmd = .reporting st next rs) :
    s.orphaned .statusWrite = .orphan .statusWrite (.write (s.slotAddr 1) (statusWord st)) := by
  simp only [State.orphaned, h]

theorem orphaned_resetWrite :
    s.orphaned .resetWrite =
      .orphan .resetWrite (.write (if s.cause.publication = .resetCause then s.pageBase else s.pageBase + 0x008) 0) := by
  by_cases h : s.cause.publication = .resetCause
  · simp only [State.orphaned, h, if_true]
    rfl
  · simp only [State.orphaned, if_neg h]
    rfl

/-! ### The notice writer (R192) -/

theorem noticeReset_kept (n : NoticeWriter) :
    n.warmReset.hold = [] ∧ n.warmReset.pendingConfig = none ∧ n.warmReset.ringSet = n.ringSet
      ∧ n.warmReset.base = n.base ∧ n.warmReset.size = n.size ∧ n.warmReset.produce = n.produce
      ∧ n.warmReset.indexWrites = n.indexWrites := by
  unfold NoticeWriter.warmReset
  split <;> exact ⟨rfl, rfl, rfl, rfl, rfl, rfl, rfl⟩

theorem noticeReset_publishing {n : NoticeWriter} (h : n.writer = .publishing) :
    n.warmReset.writer = .publishing ∧ n.warmReset.element = n.element := by
  simp [NoticeWriter.warmReset, h]

theorem noticeReset_writing {n : NoticeWriter} {k : Nat} (h : n.writer = .writing k) :
    n.warmReset.writer = .idle ∧ n.warmReset.element = none := by
  simp [NoticeWriter.warmReset, h]

/-! ### The end of a withdrawn grant (R162; log 19) -/

theorem endOrphan_effect_permitted {j : EffectJob} (h : s.permitsEffect j.record.addr = true) :
    s.endOrphan (.effect j) = (s.effectTransfer j).endIRGrant := by
  simp only [State.endOrphan, if_pos h]

theorem endOrphan_effect_denied {j : EffectJob} (h : s.permitsEffect j.record.addr = false) :
    s.endOrphan (.effect j) = s.endIRGrant := by
  simp [State.endOrphan, h]

/-- Each of the ten steps ends a withdrawn grant of its access. -/
theorem exec_of_orphan {c : Instr} {a : IRAccess} {op : OrphanOp}
    (hc : (c, a) ∈ [(Instr.effectGrant, IRAccess.effectRmw), (.faultWordWrite, .faultWrite),
      (.causeWordPublish, .causeWrite), (.vectorWordPublish, .vectorWrite), (.warmResetCauseWrite, .resetWrite),
      (.noticeElementWrite, .elementWrite), (.commandFetchRead, .fetchRead), (.resultWordWrite, .resultWrite),
      (.statusWordWrite, .statusWrite), (.consumeIndexWrite, .consumeWrite)])
    (hport : s.mpa.port = some (.orphan a op)) : exec c s = .next (s.endOrphan op).react := by
  simp only [List.mem_cons, Prod.mk.injEq, List.not_mem_nil, or_false] at hc
  obtain ⟨rfl, rfl⟩ | ⟨rfl, rfl⟩ | ⟨rfl, rfl⟩ | ⟨rfl, rfl⟩ | ⟨rfl, rfl⟩ | ⟨rfl, rfl⟩ | ⟨rfl, rfl⟩ | ⟨rfl, rfl⟩
    | ⟨rfl, rfl⟩ | ⟨rfl, rfl⟩ := hc
  · change execEffectGrant s = _
    simp [execEffectGrant, hport, done_eq]
  · change execFaultWordWrite s = _
    simp [execFaultWordWrite, hport, done_eq]
  · change execCauseWordPublish s = _
    simp [execCauseWordPublish, hport, done_eq]
  · change execVectorWordPublish s = _
    simp [execVectorWordPublish, hport, done_eq]
  · change execWarmResetCauseWrite s = _
    simp [execWarmResetCauseWrite, hport, done_eq]
  · change execNoticeElementWrite s = _
    simp [execNoticeElementWrite, hport, done_eq]
  · change execCommandFetchRead s = _
    simp [execCommandFetchRead, hport, done_eq]
  · change execResultWordWrite s = _
    simp [execResultWordWrite, hport, done_eq]
  · change execStatusWordWrite s = _
    simp [execStatusWordWrite, hport, done_eq]
  · change execConsumeIndexWrite s = _
    simp [execConsumeIndexWrite, hport, done_eq]

/-! ### The waiting reset (log 32) -/

theorem advanceWatchReset_nearer {n : Nat} (h : s.watchReset = some n) (hn : 1 < n) :
    s.advanceWatchReset = { s with watchReset := some (n - 1) } := by
  simp [State.advanceWatchReset, h, Nat.not_le.mpr hn]

theorem advanceWatchReset_taken {n : Nat} (h : s.watchReset = some n) (hn : n ≤ 1) :
    s.advanceWatchReset = s.resetWatches.issueSync := by
  simp [State.advanceWatchReset, h, hn, takeWatchReset_eq_issue]

end

/-- Settles O8. -/
theorem warmResetEndsPlayAndKeepsDefinitions : Obligations.WarmResetEndsPlayAndKeepsDefinitions := by
  refine ⟨fun s h => exec_warmReset_standing h, fun s => rfl, fun s hlow => ?reset, fun s => ⟨advanceWatchReset_none s,
    fun n hn hlate => advanceWatchReset_nearer hn hlate, fun n hn hnext => ?taken⟩, fun c a op s v hc hport hv => ?orphan⟩
  case taken => exact ⟨s.resetWatches, advanceWatchReset_taken hn hnext, rfl, resetWatches_watch⟩
  case orphan =>
    subst hv
    have hexec := exec_of_orphan hc hport
    refine ⟨fun hop => ?_, fun n w hop => ?_, fun j hop => ⟨fun hno => ?_, fun hok => ?_⟩⟩
    · subst hop
      exact hexec
    · subst hop
      exact hexec
    · rw [hexec, hop, endOrphan_effect_denied hno]
      rfl
    · rw [hexec, hop, endOrphan_effect_permitted hok]
      rfl
  case reset =>
    obtain ⟨g, hreact, hgrant⟩ := react_warmReset s
    have hgrant_ir {a : IRAccess} (hport : s.mpa.port = some (.ir a)) : (s.resetWith g).mpa.port = some (s.orphaned a) :=
      hgrant _ (resetGrant_of_ir hport)
    obtain ⟨hhold, hconfig, hset, hbase, hsize, hproduce, hwrites⟩ := noticeReset_kept s.notice
    refine ⟨s.resetWith g, by rw [exec_warmReset_taken hlow, hreact], rfl, rfl, rfl, rfl, rfl, rfl, rfl, rfl, rfl, rfl,
      rfl, rfl, resetWith_quest s g, resetWith_timer s g, rfl, rfl, rfl, rfl, rfl, rfl, rfl, rfl, rfl, rfl, rfl, rfl, rfl,
      rfl, rfl, fun hport => if_neg hport, fun hport => if_pos hport, resetRegions_pendingRegion, fun hport => ?_,
      fun hport hnone => ?_, fun n r hport hpending => ?_, hhold, hconfig, hset, hbase, hsize, hproduce, hwrites,
      fun hwriter => noticeReset_publishing hwriter, fun k hwriter => noticeReset_writing hwriter,
      fun transfer n htransfer hn => ?watch, fun r hr hbegun => ?begun, fun hunbegun => ?unbegun,
      fun m hport => hgrant _ (resetGrant_of_master hport), fun a op hport => hgrant _ (resetGrant_of_orphan hport),
      fun a ha hport => ?_, fun hport => hgrant_ir hport, fun j hport hunit => ?_, fun hport => hgrant_ir hport,
      fun hport => hgrant_ir hport, fun n hport hnone hhighest => ?_, fun hport => ?_, fun k n hport hwriter helement => ?_,
      fun st k r rest hport hcmd => ?_, fun st k rs hport hcmd => ?_, fun hport => hgrant_ir hport⟩
    · have hregions := congrArg State.regions (resetRegions_of_other hport)
      exact hregions
    · have hregions := congrArg State.regions ((resetRegions_of_granted hport).trans (installRegion_none hnone))
      exact hregions
    · exact congrArg State.regions ((resetRegions_of_granted hport).trans (installRegion_some hpending))
    case watch =>
      have hinput : n = s.inputBeforeReset := by
        have hsame : transfer = s.effectTransferring := Bool.eq_iff_iff.mpr (htransfer.trans effectTransferring_iff.symm)
        rw [hn, hsame]
        rfl
      subst hinput
      refine ⟨fun hidle hn0 => ?_, fun hidle hn0 => ?_, fun hwaits => ?_⟩
      · have htaken : s.warmReset = s.resetBase.takeWatchReset := by
          rw [warmReset_eq_place, hn0, placeWatchReset_taken (resetBase_watchReset.trans hidle)]
        refine ⟨(congrArg State.watchReset htaken).trans takeWatchReset_watchReset, fun w => ?_⟩
        refine (watch_of_watches (congrArg State.watches htaken) w).trans ?_
        rw [takeWatchReset_watch, resetBase_watch, warmReset_watch]
      · have hbehind := placeWatchReset_behind (s := s.resetBase) (resetBase_watchReset.trans hidle) hn0
        exact ⟨congrArg State.watchReset hbehind, (congrArg State.watches hbehind).trans resetBase_watches⟩
      · have hagain := placeWatchReset_again (s := s.resetBase) (fun h => hwaits (resetBase_watchReset.symm.trans h))
          s.inputBeforeReset
        exact ⟨(congrArg State.watchReset hagain).trans resetBase_watchReset,
          (congrArg State.watches hagain).trans resetBase_watches⟩
    case begun => exact syncRead_warmReset (resetSync_of_begun hr hbegun)
    case unbegun =>
      have hnone := resetSync_of_unbegun hunbegun
      exact ⟨fun hwaits => (warmReset_of_waiting hwaits).trans hnone,
        fun htaken hfree => warmReset_syncRead_none hnone htaken hfree,
        fun w htaken hdef hlow => warmReset_syncRead_lowest hnone htaken hdef hlow⟩
    · have hkept : a.withdrawn = false := by
        simp only [List.mem_cons, List.not_mem_nil, or_false] at ha
        obtain rfl | rfl | rfl := ha <;> rfl
      rw [hgrant_ir hport, orphaned_of_kept s hkept]
    · rw [hgrant_ir hport, orphaned_effectRmw hunit]
    · have hn := vectorNow_eq hnone hhighest
      subst hn
      exact hgrant_ir hport
    · rw [hgrant_ir hport, orphaned_resetWrite]
    · rw [hgrant_ir hport, orphaned_elementWrite hwriter, elementWord_of_element helement]
      rfl
    · rw [hgrant_ir hport, orphaned_resultWrite hcmd, slotAddr_eq]
    · rw [hgrant_ir hport, orphaned_statusWrite hcmd, slotAddr_eq, statusWord_eq]

end Sys2Proof.Machine
end
